-- ==== Sys2Proof/Word.lean ====
section
/-! DEFINITION. The word and byte types of the filter VM. -/

namespace Sys2Proof

/-- A `u32`: the width of every value unless stated otherwise (00_scope.md R20). -/
abbrev Word := BitVec 32

/-- A `u8` (00_scope.md R20). -/
abbrev Byte := BitVec 8

end Sys2Proof
end

