-- ==== Sys2Proof/Config.lean ====
section
/-! DEFINITION. The fixed constants of the VM, its implementation parameters with the spec's defaults, and the
external functions the spec gives no body. -/

namespace Sys2Proof

/-! ## Fixed constants -/

/-- `MEMSIZE` (00_scope.md R7). -/
abbrev memSize : Nat := 0x40000

/-- `MEMSIZE` as the `u32` that `execute` loads into R7 (00_scope.md R7). -/
abbrev memSizeWord : Word := 0x40000#32

/-- `MEMMASK = MEMSIZE - 1` (00_scope.md R7). -/
abbrev memMask : Word := 0x3FFFF#32

/-- `GUARD`: bytes of the memory array past `MEMSIZE` (00_scope.md R8). -/
abbrev guardBytes : Nat := 4

/-- `GLOBALMEMADDR` (00_scope.md R9). -/
abbrev globalMemAddr : Nat := 0x3C000

/-- `GLOBALMEMSIZE` (00_scope.md R9). -/
abbrev globalMemSize : Nat := 0x2000

/-- `FIXEDGLOBALSIZE`: the length of the fixed control block (00_scope.md R9). -/
abbrev fixedGlobalSize : Nat := 64

/-- Address of the control block's result-size field, +0x1C (20_memory.md R84). -/
abbrev resultSizeAddr : Nat := 0x3C01C

/-- Address of the control block's result-offset field, +0x20 (20_memory.md R84). -/
abbrev resultOffsetAddr : Nat := 0x3C020

/-- Address of the control block's new-global-data-size field, +0x30 (20_memory.md R84). -/
abbrev newGlobalSizeAddr : Nat := 0x3C030

/-- `MAX_OPS`: the operations budget at the start of each `execute` (00_scope.md R11). -/
abbrev maxOps : Int := 25000000

/-! ## Implementation parameters -/

/-- `FLAG_FORMULA` (00_scope.md R14, 41_arithmetic.md R220). -/
inductive FlagFormula where
  | literal
  | idiomatic
deriving DecidableEq, Repr

/-- `BYTE_IMM` (00_scope.md R15, 30_encoding.md R113). -/
inductive ByteImm where
  | raw8
  | vlq
deriving DecidableEq, Repr

/-- `BYTE_REG_WRITE` (00_scope.md R16, 20_memory.md R81). -/
inductive ByteRegWrite where
  | merge
  | zext
deriving DecidableEq, Repr

/-- `EXHAUST_WINDOW` (00_scope.md R19, 70_reset_and_hazards.md R435). -/
inductive ExhaustWindow where
  | read
  | empty
deriving DecidableEq, Repr

/-- `CRC32` (00_scope.md R17): the default, or any other function, named by a number (log entry 6). -/
inductive CrcFunction where
  | ieee8023
  | other (n : Nat)
deriving DecidableEq, Repr

/-- One triple of `STD_SIGNATURES` (00_scope.md R18). -/
structure Signature where
  /-- byte length of the bytecode -/
  len : Nat
  /-- CRC32 of all its bytes -/
  crc : Word
  /-- the standard filter's id -/
  id : Word
deriving DecidableEq, Repr

/-- The implementation parameters that are data (00_scope.md R12 to R19). `STD_FILTER` is a function and stands
below as opaque constants. -/
structure Config where
  flagFormula : FlagFormula
  byteImm : ByteImm
  byteRegWrite : ByteRegWrite
  maxCodeSize : Nat
  bitbufSize : Nat
  crc : CrcFunction
  stdSignatures : List Signature
  poisonOnExhaust : Bool
  exhaustWindow : ExhaustWindow
deriving DecidableEq, Repr

/-- The default contents of `STD_SIGNATURES` (30_encoding.md R131). -/
def Config.defaultSignatures : List Signature :=
  [⟨53, 0xAD576887#32, 1#32⟩, ⟨57, 0x3CD7E57E#32, 2#32⟩, ⟨120, 0x3769893F#32, 3#32⟩, ⟨29, 0x0E06077D#32, 6#32⟩,
   ⟨149, 0x1C2C5DC8#32, 4#32⟩, ⟨216, 0xBC85E701#32, 5#32⟩, ⟨40, 0x46B9C560#32, 7#32⟩]

/-- Every parameter at the spec's default (00_scope.md R12 to R19). -/
def Config.default : Config where
  flagFormula := .literal
  byteImm := .raw8
  byteRegWrite := .merge
  maxCodeSize := 7552
  bitbufSize := 0x8000
  crc := .ieee8023
  stdSignatures := Config.defaultSignatures
  poisonOnExhaust := false
  exhaustWindow := .read

/-! ## External functions with no body (free values) -/

/-- A CRC function other than the default (00_scope.md R17), one for each number (log entry 6). -/
opaque Config.otherCrc : Nat → List Byte → Word

/-- The bytes a standard filter stores when it accepts: filter id, the eight registers R0 to R7 and the memory's
cells, to a list of (address, byte) stores in order (45_system.md R351; log entry 5). -/
opaque Config.stdFilterWrites : Word → List Word → List (Nat × Byte) → List (Nat × Byte)

/-- The output size an accepting standard filter records at +0x1C (45_system.md R351 clause 4; log entry 5). -/
opaque Config.stdFilterSize : Word → List Word → List (Nat × Byte) → Word

/-- The output offset an accepting standard filter records at +0x20 (45_system.md R351 clause 4; log entry 5). -/
opaque Config.stdFilterOffset : Word → List Word → List (Nat × Byte) → Word

end Sys2Proof
end

