-- ==== Sys2Proof/Syntax.lean ====
section
/-! DEFINITION. Registers, operand descriptors and the 55 instructions of the filter VM: one constructor for each
row of the opcode table (30_encoding.md R121, R122). -/

namespace Sys2Proof

/-- The eight general registers; R7 is the stack pointer (10_state.md R30, R31). -/
inductive Reg where
  | r0 | r1 | r2 | r3 | r4 | r5 | r6 | r7
deriving DecidableEq, Repr

/-- An operand descriptor (00_scope.md R28). Addresses are formed by 20_memory.md R79. -/
inductive Operand where
  /-- `Reg r`: `1 rrr` (30_encoding.md R110) -/
  | reg (r : Reg)
  /-- `Imm v`: `00` and a VLQ or 8 raw bits (30_encoding.md R111, R113) -/
  | imm (v : Word)
  /-- `Mem(r, disp)`: `010 rrr` or `0110 rrr` and a VLQ (30_encoding.md R112) -/
  | mem (r : Reg) (disp : Word)
  /-- `MemAbs(disp)`: `0111` and a VLQ (30_encoding.md R112) -/
  | memAbs (disp : Word)
deriving DecidableEq, Repr

/-- A decoded instruction. `bm` is the byte-mode bit of the opcodes that have one (30_encoding.md R123); `op1` and
`op2` are operands 1 and 2. The immediate target of a jump or call is the corrected absolute index
(30_encoding.md R125). -/
inductive Instr where
  | mov (bm : Bool) (op1 op2 : Operand)
  | cmp (bm : Bool) (op1 op2 : Operand)
  | add (bm : Bool) (op1 op2 : Operand)
  | sub (bm : Bool) (op1 op2 : Operand)
  | jz (op1 : Operand)
  | jnz (op1 : Operand)
  | inc (bm : Bool) (op1 : Operand)
  | dec (bm : Bool) (op1 : Operand)
  | jmp (op1 : Operand)
  | xor (bm : Bool) (op1 op2 : Operand)
  | and (bm : Bool) (op1 op2 : Operand)
  | or (bm : Bool) (op1 op2 : Operand)
  | test (bm : Bool) (op1 op2 : Operand)
  | js (op1 : Operand)
  | jns (op1 : Operand)
  | jb (op1 : Operand)
  | jbe (op1 : Operand)
  | ja (op1 : Operand)
  | jae (op1 : Operand)
  | push (op1 : Operand)
  | pop (op1 : Operand)
  | call (op1 : Operand)
  | ret
  | not (bm : Bool) (op1 : Operand)
  | shl (bm : Bool) (op1 op2 : Operand)
  | shr (bm : Bool) (op1 op2 : Operand)
  | sar (bm : Bool) (op1 op2 : Operand)
  | neg (bm : Bool) (op1 : Operand)
  | pusha
  | popa
  | pushf
  | popf
  | movzx (op1 op2 : Operand)
  | movsx (op1 op2 : Operand)
  | xchg (bm : Bool) (op1 op2 : Operand)
  | mul (bm : Bool) (op1 op2 : Operand)
  | div (bm : Bool) (op1 op2 : Operand)
  | adc (bm : Bool) (op1 op2 : Operand)
  | sbb (bm : Bool) (op1 op2 : Operand)
  | print
  | movb (op1 op2 : Operand)
  | movd (op1 op2 : Operand)
  | cmpb (op1 op2 : Operand)
  | cmpd (op1 op2 : Operand)
  | addb (op1 op2 : Operand)
  | addd (op1 op2 : Operand)
  | subb (op1 op2 : Operand)
  | subd (op1 op2 : Operand)
  | incb (op1 : Operand)
  | incd (op1 : Operand)
  | decb (op1 : Operand)
  | decd (op1 : Operand)
  | negb (op1 : Operand)
  | negd (op1 : Operand)
  | standard (op1 : Operand)
deriving DecidableEq, Repr

end Sys2Proof
end

