-- ==== Sys2Proof/WellFormed.lean ====
section
/-! DEFINITION. Well-formedness: which instructions `prepare` can put at an index of a Program, which instruction
lists are Programs, and which parameter settings the spec admits. -/

namespace Sys2Proof

/-- The parameters satisfy `BITBUF_SIZE >= MAX_CODE_SIZE` (00_scope.md R13). -/
def Config.wellFormed (c : Config) : Bool :=
  decide (c.maxCodeSize ≤ c.bitbufSize)

/-- An operand that the decoder can produce in an instruction of byte mode `bm`: under `BYTE_IMM = raw8` a
byte-mode immediate is 0 to 255 (30_encoding.md R113); every other operand is unrestricted (R115). -/
def Operand.wellFormed (bi : ByteImm) (bm : Bool) : Operand → Bool
  | .imm v => !(bm && bi == .raw8) || decide (v.toNat < 256)
  | .reg _ => true
  | .mem _ _ => true
  | .memAbs _ => true

/-- The jump and call targets that the displacement code reaches from index `k` (30_encoding.md R125): an absolute
index below `2^31 - 256`, or a relative displacement of at most 127, taken as a signed difference. -/
def targetReachable (k : Nat) (t : Word) : Bool :=
  decide (t.toNat < 0x7FFFFF00) || decide ((t - BitVec.ofNat 32 k).toInt ≤ 127)

/-- The target operand of a jump or call at index `k`: only an immediate is restricted (30_encoding.md R115, R125). -/
def Operand.targetWellFormed (k : Nat) : Operand → Bool
  | .imm t => targetReachable k t
  | .reg _ => true
  | .mem _ _ => true
  | .memAbs _ => true

/-- An instruction that `prepare` can put at index `k` of a Program. The typed opcodes keep the operands of the
generic instruction they replace (30_encoding.md R145); STANDARD's operand is an immediate (R133). -/
def Instr.wellFormed (bi : ByteImm) (k : Nat) : Instr → Bool
  | .mov bm a b => a.wellFormed bi bm && b.wellFormed bi bm
  | .cmp bm a b => a.wellFormed bi bm && b.wellFormed bi bm
  | .add bm a b => a.wellFormed bi bm && b.wellFormed bi bm
  | .sub bm a b => a.wellFormed bi bm && b.wellFormed bi bm
  | .jz a => a.targetWellFormed k
  | .jnz a => a.targetWellFormed k
  | .inc bm a => a.wellFormed bi bm
  | .dec bm a => a.wellFormed bi bm
  | .jmp a => a.targetWellFormed k
  | .xor bm a b => a.wellFormed bi bm && b.wellFormed bi bm
  | .and bm a b => a.wellFormed bi bm && b.wellFormed bi bm
  | .or bm a b => a.wellFormed bi bm && b.wellFormed bi bm
  | .test bm a b => a.wellFormed bi bm && b.wellFormed bi bm
  | .js a => a.targetWellFormed k
  | .jns a => a.targetWellFormed k
  | .jb a => a.targetWellFormed k
  | .jbe a => a.targetWellFormed k
  | .ja a => a.targetWellFormed k
  | .jae a => a.targetWellFormed k
  | .push a => a.wellFormed bi false
  | .pop a => a.wellFormed bi false
  | .call a => a.targetWellFormed k
  | .ret => true
  | .not bm a => a.wellFormed bi bm
  | .shl bm a b => a.wellFormed bi bm && b.wellFormed bi bm
  | .shr bm a b => a.wellFormed bi bm && b.wellFormed bi bm
  | .sar bm a b => a.wellFormed bi bm && b.wellFormed bi bm
  | .neg bm a => a.wellFormed bi bm
  | .pusha => true
  | .popa => true
  | .pushf => true
  | .popf => true
  | .movzx a b => a.wellFormed bi false && b.wellFormed bi false
  | .movsx a b => a.wellFormed bi false && b.wellFormed bi false
  | .xchg bm a b => a.wellFormed bi bm && b.wellFormed bi bm
  | .mul bm a b => a.wellFormed bi bm && b.wellFormed bi bm
  | .div bm a b => a.wellFormed bi bm && b.wellFormed bi bm
  | .adc bm a b => a.wellFormed bi bm && b.wellFormed bi bm
  | .sbb bm a b => a.wellFormed bi bm && b.wellFormed bi bm
  | .print => true
  | .movb a b => a.wellFormed bi true && b.wellFormed bi true
  | .movd a b => a.wellFormed bi false && b.wellFormed bi false
  | .cmpb a b => a.wellFormed bi true && b.wellFormed bi true
  | .cmpd a b => a.wellFormed bi false && b.wellFormed bi false
  | .addb a b => a.wellFormed bi true && b.wellFormed bi true
  | .addd a b => a.wellFormed bi false && b.wellFormed bi false
  | .subb a b => a.wellFormed bi true && b.wellFormed bi true
  | .subd a b => a.wellFormed bi false && b.wellFormed bi false
  | .incb a => a.wellFormed bi true
  | .incd a => a.wellFormed bi false
  | .decb a => a.wellFormed bi true
  | .decd a => a.wellFormed bi false
  | .negb a => a.wellFormed bi true
  | .negd a => a.wellFormed bi false
  | .standard a => match a with
    | .imm _ => true
    | .reg _ => false
    | .mem _ _ => false
    | .memAbs _ => false

/-- The instruction is STANDARD. -/
def Instr.isStandard : Instr → Bool
  | .standard _ => true
  | _ => false

/-- An instruction list is a Program (30_encoding.md R140): it is not empty, its last instruction is RET, and
STANDARD occurs only as instruction 0 of a two-instruction Program. -/
def programWellFormed (cmd : List Instr) : Bool :=
  cmd.getLast? == some .ret && (!cmd.any Instr.isStandard || (cmd.length == 2 && (cmd.take 1).all Instr.isStandard))

end Sys2Proof
end

