-- ==== Sys2Proof/Decode.lean ====
section
/-! DEFINITION. The MSB-first bit reader, the variable-length integers, the operand and instruction decoder, and
the encoder, from 30_encoding.md. Decoding is total: every bit string decodes (R127). -/

namespace Sys2Proof

/-! ## Bit reader (R100 to R103) -/

/-- The bit reader: the bytecode bytes `Buf[0..L-1]` and the bit cursor `pos` (R100). -/
structure BitReader where
  buf : List Byte
  pos : Nat
deriving DecidableEq, Repr

/-- `B(i)`: the byte at index `i`, 0 past the end of the bytecode (R100). -/
def BitReader.byteAt (r : BitReader) (i : Nat) : Byte :=
  r.buf.getD i 0#8

/-- `peek16()`: the 16 stream bits at the cursor, the first as bit 15 (R101). -/
def BitReader.peek16 (r : BitReader) : Word :=
  let a := r.pos / 8
  let b := r.pos % 8
  let w : Word := ((r.byteAt a).setWidth 32 <<< 16) ||| ((r.byteAt (a + 1)).setWidth 32 <<< 8) |||
    (r.byteAt (a + 2)).setWidth 32
  (w >>> (8 - b)) &&& 0xFFFF#32

/-- `advance(n)` (R102). -/
def BitReader.advance (r : BitReader) (n : Nat) : BitReader :=
  { r with pos := r.pos + n }

/-- Stream bit `p`: bit `7 - (p mod 8)` of byte `p div 8` (00_scope.md R21), 0 past the end (R100). -/
def BitReader.bitAt (r : BitReader) (p : Nat) : Bool :=
  (r.byteAt (p / 8)).getLsbD (7 - p % 8)

/-- The decoder's loop condition `(pos >> 3) < limit` (R103). -/
def BitReader.before (r : BitReader) (limit : Nat) : Bool :=
  decide (r.pos / 8 < limit)

/-! ## Variable-length integers (R105, R106) -/

/-- `ReadVLQ()` (R105). -/
def readVLQ (r : BitReader) : Word × BitReader :=
  let d := r.peek16
  if d &&& 0xC000#32 = 0x0000#32 then ((d >>> 10) &&& 0xF#32, r.advance 6)
  else if d &&& 0xC000#32 = 0x4000#32 then
    if d &&& 0x3C00#32 = 0#32 then (0xFFFFFF00#32 ||| ((d >>> 2) &&& 0xFF#32), r.advance 14)
    else ((d >>> 6) &&& 0xFF#32, r.advance 10)
  else if d &&& 0xC000#32 = 0x8000#32 then
    let r1 := r.advance 2
    (r1.peek16, r1.advance 16)
  else
    let r1 := r.advance 2
    let r2 := r1.advance 16
    ((r1.peek16 <<< 16) ||| r2.peek16, r2.advance 16)

/-! ## Operands (R110 to R115) -/

/-- The register a 3-bit field names (R110). -/
def Reg.ofField : Nat → Reg
  | 0 => .r0 | 1 => .r1 | 2 => .r2 | 3 => .r3 | 4 => .r4 | 5 => .r5 | 6 => .r6 | _ => .r7

/-- The 3-bit field that names a register (R110). -/
def Reg.field : Reg → Nat
  | .r0 => 0 | .r1 => 1 | .r2 => 2 | .r3 => 3 | .r4 => 4 | .r5 => 5 | .r6 => 6 | .r7 => 7

/-- `DecodeOperand(bm)` (R114). -/
def decodeOperand (bi : ByteImm) (bm : Bool) (r : BitReader) : Operand × BitReader :=
  let d := r.peek16
  if d &&& 0x8000#32 ≠ 0#32 then (.reg (Reg.ofField ((d >>> 12) &&& 7#32).toNat), r.advance 4)
  else if d &&& 0xC000#32 = 0#32 then
    if bm && bi == .raw8 then (.imm ((d >>> 6) &&& 0xFF#32), r.advance 10)
    else
      let (v, r1) := readVLQ (r.advance 2)
      (.imm v, r1)
  else if d &&& 0x2000#32 = 0#32 then (.mem (Reg.ofField ((d >>> 10) &&& 7#32).toNat) 0#32, r.advance 6)
  else if d &&& 0x1000#32 = 0#32 then
    let (v, r1) := readVLQ (r.advance 7)
    (.mem (Reg.ofField ((d >>> 9) &&& 7#32).toNat) v, r1)
  else
    let (v, r1) := readVLQ (r.advance 4)
    (.memAbs v, r1)

/-! ## The opcode field and the per-opcode flag table (R120 to R123) -/

/-- The opcode field (R120): a 4-bit code 0 to 7, or a 6-bit code 32 to 63 less 24. -/
def decodeOpcode (r : BitReader) : Nat × BitReader :=
  let d := r.peek16
  if d &&& 0x8000#32 = 0#32 then ((d >>> 12).toNat, r.advance 4)
  else ((d >>> 10).toNat - 24, r.advance 6)

/-- A row of the per-opcode flag table (R121). -/
structure OpInfo where
  /-- N: the operand count -/
  n : Nat
  /-- B: a byte-mode bit follows the opcode -/
  b : Bool
  /-- J: a jump -/
  j : Bool
  /-- P: a procedure instruction -/
  p : Bool
  /-- U: uses flags -/
  u : Bool
  /-- C: changes flags -/
  c : Bool
deriving DecidableEq, Repr

/-- A row with neither J, P, U nor C. -/
def OpInfo.plain (n : Nat) (b : Bool) : OpInfo := ⟨n, b, false, false, false, false⟩

/-- A row with C only and a byte-mode bit. -/
def OpInfo.alu (n : Nat) : OpInfo := ⟨n, true, false, false, false, true⟩

/-- The row of a conditional jump: J and U. -/
def OpInfo.condJump : OpInfo := ⟨1, false, true, false, true, false⟩

/-- The per-opcode flag table, opcodes 0 to 39 (R121). -/
def opTable : List OpInfo :=
  [ .plain 2 true,                              -- 0 MOV
    .alu 2, .alu 2, .alu 2,                     -- 1 CMP, 2 ADD, 3 SUB
    .condJump, .condJump,                       -- 4 JZ, 5 JNZ
    .alu 1, .alu 1,                             -- 6 INC, 7 DEC
    ⟨1, false, true, false, false, false⟩,      -- 8 JMP
    .alu 2, .alu 2, .alu 2, .alu 2,             -- 9 XOR, 10 AND, 11 OR, 12 TEST
    .condJump, .condJump, .condJump,            -- 13 JS, 14 JNS, 15 JB
    .condJump, .condJump, .condJump,            -- 16 JBE, 17 JA, 18 JAE
    .plain 1 false, .plain 1 false,             -- 19 PUSH, 20 POP
    ⟨1, false, false, true, false, false⟩,      -- 21 CALL
    ⟨0, false, false, true, false, false⟩,      -- 22 RET
    .plain 1 true,                              -- 23 NOT
    .alu 2, .alu 2, .alu 2,                     -- 24 SHL, 25 SHR, 26 SAR
    .alu 1,                                     -- 27 NEG
    .plain 0 false, .plain 0 false,             -- 28 PUSHA, 29 POPA
    ⟨0, false, false, false, true, false⟩,      -- 30 PUSHF
    ⟨0, false, false, false, false, true⟩,      -- 31 POPF
    .plain 2 false, .plain 2 false,             -- 32 MOVZX, 33 MOVSX
    .plain 2 true, .plain 2 true, .plain 2 true, -- 34 XCHG, 35 MUL, 36 DIV
    ⟨2, true, false, false, true, true⟩,        -- 37 ADC
    ⟨2, true, false, false, true, true⟩,        -- 38 SBB
    .plain 0 false ]                            -- 39 PRINT

/-- The table row of an opcode. The internal opcodes 40 to 54 have no row (R122): none of them is a jump, a
procedure instruction or a flag user or changer of the scan (R147). -/
def opInfo (op : Nat) : OpInfo :=
  opTable.getD op (.plain 0 false)

/-- The opcode number of an instruction (R121, R122). -/
def Instr.opcode : Instr → Nat
  | .mov _ _ _ => 0 | .cmp _ _ _ => 1 | .add _ _ _ => 2 | .sub _ _ _ => 3
  | .jz _ => 4 | .jnz _ => 5 | .inc _ _ => 6 | .dec _ _ => 7 | .jmp _ => 8
  | .xor _ _ _ => 9 | .and _ _ _ => 10 | .or _ _ _ => 11 | .test _ _ _ => 12
  | .js _ => 13 | .jns _ => 14 | .jb _ => 15 | .jbe _ => 16 | .ja _ => 17 | .jae _ => 18
  | .push _ => 19 | .pop _ => 20 | .call _ => 21 | .ret => 22 | .not _ _ => 23
  | .shl _ _ _ => 24 | .shr _ _ _ => 25 | .sar _ _ _ => 26 | .neg _ _ => 27
  | .pusha => 28 | .popa => 29 | .pushf => 30 | .popf => 31
  | .movzx _ _ => 32 | .movsx _ _ => 33 | .xchg _ _ _ => 34 | .mul _ _ _ => 35 | .div _ _ _ => 36
  | .adc _ _ _ => 37 | .sbb _ _ _ => 38 | .print => 39
  | .movb _ _ => 40 | .movd _ _ => 41 | .cmpb _ _ => 42 | .cmpd _ _ => 43
  | .addb _ _ => 44 | .addd _ _ => 45 | .subb _ _ => 46 | .subd _ _ => 47
  | .incb _ => 48 | .incd _ => 49 | .decb _ => 50 | .decd _ => 51 | .negb _ => 52 | .negd _ => 53
  | .standard _ => 54

/-- The byte-mode bit an instruction was decoded with, or that its opcode fixes (R122, R123). -/
def Instr.byteMode : Instr → Bool
  | .mov bm _ _ => bm | .cmp bm _ _ => bm | .add bm _ _ => bm | .sub bm _ _ => bm
  | .jz _ => false | .jnz _ => false | .inc bm _ => bm | .dec bm _ => bm | .jmp _ => false
  | .xor bm _ _ => bm | .and bm _ _ => bm | .or bm _ _ => bm | .test bm _ _ => bm
  | .js _ => false | .jns _ => false | .jb _ => false | .jbe _ => false | .ja _ => false | .jae _ => false
  | .push _ => false | .pop _ => false | .call _ => false | .ret => false | .not bm _ => bm
  | .shl bm _ _ => bm | .shr bm _ _ => bm | .sar bm _ _ => bm | .neg bm _ => bm
  | .pusha => false | .popa => false | .pushf => false | .popf => false
  | .movzx _ _ => false | .movsx _ _ => false | .xchg bm _ _ => bm | .mul bm _ _ => bm | .div bm _ _ => bm
  | .adc bm _ _ => bm | .sbb bm _ _ => bm | .print => false
  | .movb _ _ => true | .movd _ _ => false | .cmpb _ _ => true | .cmpd _ _ => false
  | .addb _ _ => true | .addd _ _ => false | .subb _ _ => true | .subd _ _ => false
  | .incb _ => true | .incd _ => false | .decb _ => true | .decd _ => false | .negb _ => true | .negd _ => false
  | .standard _ => false

/-- The operands of an instruction, in order. -/
def Instr.operands : Instr → List Operand
  | .mov _ a b => [a, b] | .cmp _ a b => [a, b] | .add _ a b => [a, b] | .sub _ a b => [a, b]
  | .jz a => [a] | .jnz a => [a] | .inc _ a => [a] | .dec _ a => [a] | .jmp a => [a]
  | .xor _ a b => [a, b] | .and _ a b => [a, b] | .or _ a b => [a, b] | .test _ a b => [a, b]
  | .js a => [a] | .jns a => [a] | .jb a => [a] | .jbe a => [a] | .ja a => [a] | .jae a => [a]
  | .push a => [a] | .pop a => [a] | .call a => [a] | .ret => [] | .not _ a => [a]
  | .shl _ a b => [a, b] | .shr _ a b => [a, b] | .sar _ a b => [a, b] | .neg _ a => [a]
  | .pusha => [] | .popa => [] | .pushf => [] | .popf => []
  | .movzx a b => [a, b] | .movsx a b => [a, b] | .xchg _ a b => [a, b] | .mul _ a b => [a, b] | .div _ a b => [a, b]
  | .adc _ a b => [a, b] | .sbb _ a b => [a, b] | .print => []
  | .movb a b => [a, b] | .movd a b => [a, b] | .cmpb a b => [a, b] | .cmpd a b => [a, b]
  | .addb a b => [a, b] | .addd a b => [a, b] | .subb a b => [a, b] | .subd a b => [a, b]
  | .incb a => [a] | .incd a => [a] | .decb a => [a] | .decd a => [a] | .negb a => [a] | .negd a => [a]
  | .standard a => [a]

/-- The instruction of generic opcode `op` with byte mode `bm` and operands `a` and `b` (those its row has).
`decodeOpcode` gives no opcode above 39. -/
def Instr.ofOpcode (op : Nat) (bm : Bool) (a b : Operand) : Instr :=
  match op with
  | 0 => .mov bm a b | 1 => .cmp bm a b | 2 => .add bm a b | 3 => .sub bm a b
  | 4 => .jz a | 5 => .jnz a | 6 => .inc bm a | 7 => .dec bm a | 8 => .jmp a
  | 9 => .xor bm a b | 10 => .and bm a b | 11 => .or bm a b | 12 => .test bm a b
  | 13 => .js a | 14 => .jns a | 15 => .jb a | 16 => .jbe a | 17 => .ja a | 18 => .jae a
  | 19 => .push a | 20 => .pop a | 21 => .call a | 22 => .ret | 23 => .not bm a
  | 24 => .shl bm a b | 25 => .shr bm a b | 26 => .sar bm a b | 27 => .neg bm a
  | 28 => .pusha | 29 => .popa | 30 => .pushf | 31 => .popf
  | 32 => .movzx a b | 33 => .movsx a b | 34 => .xchg bm a b | 35 => .mul bm a b | 36 => .div bm a b
  | 37 => .adc bm a b | 38 => .sbb bm a b | _ => .print

/-! ## Jump and call targets (R125, R126) -/

/-- The corrected target of raw value `v` at index `k` (R125). -/
def correctTarget (k : Nat) (v : Word) : Word :=
  let d := v.toInt
  if 256 ≤ d then BitVec.ofInt 32 (d - 256)
  else
    let d' := if 136 ≤ d then d - 264 else if 16 ≤ d then d - 8 else if 8 ≤ d then d - 16 else d
    BitVec.ofInt 32 (d' + k)

/-- A jump's or call's operand 1 after decoding: an immediate is replaced by its corrected target (R125, R135). -/
def correctOperand (k : Nat) : Operand → Operand
  | .imm v => .imm (correctTarget k v)
  | .reg r => .reg r
  | .mem r d => .mem r d
  | .memAbs d => .memAbs d

/-! ## Instructions (R123, R124, R135) -/

/-- The byte-mode bit, read only if the row has B (R123). -/
def decodeByteMode (info : OpInfo) (r : BitReader) : Bool × BitReader :=
  if info.b then ((r.peek16 >>> 15) == 1#32, r.advance 1) else (false, r)

/-- `DecodeInstr(k)` (R135): opcode, byte-mode bit, operand 1, operand 2. -/
def decodeInstr (bi : ByteImm) (k : Nat) (r : BitReader) : Instr × BitReader :=
  let (op, r1) := decodeOpcode r
  let info := opInfo op
  let (bm, r2) := decodeByteMode info r1
  match info.n with
  | 0 => (Instr.ofOpcode op bm (.imm 0#32) (.imm 0#32), r2)
  | 1 =>
    let (a, r3) := decodeOperand bi bm r2
    let a' := if info.j || info.p then correctOperand k a else a
    (Instr.ofOpcode op bm a' (.imm 0#32), r3)
  | _ =>
    let (a, r3) := decodeOperand bi bm r2
    let (b, r4) := decodeOperand bi bm r3
    (Instr.ofOpcode op bm a b, r4)

/-- The stream bytes of an opcode-table word: the table gives 16-bit windows whose bit 15 is the first stream bit,
so each 16-bit word is stored high byte first (R101, R120; log entry 19). -/
def tableBytes : Nat → Nat → List Byte
  | 0, _ => []
  | n + 1, w => BitVec.ofNat 8 (w / 256 % 256) :: BitVec.ofNat 8 (w % 256) :: tableBytes n (w / 65536)

/-- The instruction the decoder reads, at index 0 and with the default parameters, from an opcode-table word. -/
def decodeTableWord (nbits w : Nat) : Option Instr :=
  if nbits = 0 then none
  else some (decodeInstr Config.default.byteImm 0 ⟨tableBytes ((nbits + 15) / 16) (w % 2 ^ nbits), 0⟩).1

/-! ## The encoder -/

/-- The low `n` bits of a value, the most significant first (00_scope.md R21). -/
def bitsMSB : Nat → Word → List Bool
  | 0, _ => []
  | n + 1, v => v.getLsbD n :: bitsMSB n v

/-- The shortest VLQ form of a value (R105; log entry 14). -/
def encodeVLQ (v : Word) : List Bool :=
  if v.toNat < 16 then false :: false :: bitsMSB 4 v
  else if v.toNat < 256 then false :: true :: bitsMSB 8 v
  else if 0xFFFFFF00 ≤ v.toNat then false :: true :: false :: false :: false :: false :: bitsMSB 8 v
  else if v.toNat < 65536 then true :: false :: bitsMSB 16 v
  else true :: true :: bitsMSB 32 v

/-- The bits of a register number (R110). -/
def encodeReg (r : Reg) : List Bool :=
  bitsMSB 3 (BitVec.ofNat 32 r.field)

/-- The bits of an operand (R110 to R113), the short memory form for displacement 0 (log entry 14). -/
def encodeOperand (bi : ByteImm) (bm : Bool) : Operand → List Bool
  | .reg r => true :: encodeReg r
  | .imm v => false :: false :: (if bm && bi == .raw8 then bitsMSB 8 v else encodeVLQ v)
  | .mem r d =>
    if d = 0#32 then false :: true :: false :: encodeReg r
    else false :: true :: true :: false :: (encodeReg r ++ encodeVLQ d)
  | .memAbs d => false :: true :: true :: true :: encodeVLQ d

/-- A raw value whose corrected target at index `k` is `t` (R126; log entry 14). It is right for every target
that `targetReachable` admits. -/
def rawTarget (k : Nat) (t : Word) : Word :=
  let δ := (t - BitVec.ofNat 32 k).toInt
  if 0 ≤ δ ∧ δ ≤ 7 then BitVec.ofInt 32 δ
  else if -8 ≤ δ ∧ δ ≤ -1 then BitVec.ofInt 32 (δ + 16)
  else if 8 ≤ δ ∧ δ ≤ 127 then BitVec.ofInt 32 (δ + 8)
  else if -128 ≤ δ ∧ δ ≤ -9 then BitVec.ofInt 32 (δ + 264)
  else if δ < 0 then BitVec.ofInt 32 δ
  else t + 256#32

/-- The operand to encode for a jump's or call's target at index `k` (R126). -/
def rawOperand (k : Nat) : Operand → Operand
  | .imm t => .imm (rawTarget k t)
  | .reg r => .reg r
  | .mem r d => .mem r d
  | .memAbs d => .memAbs d

/-- The bits of the opcode field (R120). -/
def encodeOpcode (op : Nat) : List Bool :=
  if op < 8 then bitsMSB 4 (BitVec.ofNat 32 op) else bitsMSB 6 (BitVec.ofNat 32 (op + 24))

/-- The instruction has an encoding: opcodes 40 to 54 have none (R122). -/
def Instr.encodable (i : Instr) : Bool :=
  decide (i.opcode < 40)

/-- The stream bits of an instruction at index `k` (R124); an instruction with no encoding has none. -/
def encode (bi : ByteImm) (k : Nat) (i : Instr) : Option (List Bool) :=
  if i.encodable then
    let info := opInfo i.opcode
    let operands := if info.j || info.p then i.operands.map (rawOperand k) else i.operands
    some (encodeOpcode i.opcode ++ (if info.b then [i.byteMode] else []) ++
      (operands.map (encodeOperand bi i.byteMode)).flatten)
  else none

/-- Eight stream bits as a byte, the first as bit 7 (00_scope.md R21); missing bits are 0. -/
def byteOfBits (bs : List Bool) : Byte :=
  (List.range 8).foldl (fun acc i => (acc <<< 1) ||| (BitVec.ofBool (bs.getD i false)).setWidth 8) 0#8

/-- Stream bits packed into bytes, padded with 0 bits to a whole byte; the first argument is the byte count. -/
def packBits : Nat → List Bool → List Byte
  | 0, _ => []
  | n + 1, bs => byteOfBits bs :: packBits n (bs.drop 8)

/-- The bytes of an instruction's encoding, starting at bit 7 of the first byte. -/
def encodeBytes (bi : ByteImm) (k : Nat) (i : Instr) : Option (List Byte) :=
  (encode bi k i).map fun bs => packBits ((bs.length + 7) / 8) bs

/-- The stream at the cursor begins with the bits `bs`. -/
def BitReader.startsWith (r : BitReader) (bs : List Bool) : Prop :=
  ∀ j, j < bs.length → r.bitAt (r.pos + j) = bs.getD j false

end Sys2Proof
end

