-- ==== Sys2Proof/Machine/State.lean ====
section
/-! DEFINITION. The state of one VM instance, its Programs, its decoder and its host, as plain data. -/

namespace Sys2Proof.Machine

/-- The register file R0 to R7 (10_state.md R30). -/
structure Regs where
  r0 : Word
  r1 : Word
  r2 : Word
  r3 : Word
  r4 : Word
  r5 : Word
  r6 : Word
  r7 : Word
deriving DecidableEq, Repr

/-- `InitR[0..6]`: the seven initial register values of a Program (10_state.md R42). -/
structure InitRegs where
  r0 : Word
  r1 : Word
  r2 : Word
  r3 : Word
  r4 : Word
  r5 : Word
  r6 : Word
deriving DecidableEq, Repr

/-- `Mem`: the 0x40004 bytes of data memory (20_memory.md R70) as (address, byte) cells. Its canonical form is
`Memory.wf`; a byte with no cell reads as 0 (log entry 2). -/
abbrev Memory := List Host.Cell

/-- How an `execute` ends (60_exceptions.md R401). -/
inductive ExecOutcome where
  | finished
  | exhausted
deriving DecidableEq, Repr

/-- What the instance is doing. -/
inductive Phase where
  /-- between calls (60_exceptions.md R411) -/
  | idle
  /-- inside the loop of an `execute` (43_control.md R301) -/
  | running
  /-- the loop met `finish(o)` (43_control.md R300); the wrapper's end (70_reset_and_hazards.md R431) comes next -/
  | ended (o : ExecOutcome)
deriving DecidableEq, Repr

/-- A Program object (10_state.md R42). `CmdCount` is the length of `cmd`. -/
structure Program where
  cmd : List Instr
  staticData : List Byte
  initR : InitRegs
  globalData : List Byte
  filteredDataOffset : Word
  filteredDataSize : Word
deriving DecidableEq, Repr

/-- What `execute` returns to the host (70_reset_and_hazards.md R431). -/
structure ExecResult where
  outcome : ExecOutcome
  declined : Bool
  windowOffset : Word
  windowSize : Word
  globalData : List Byte
deriving DecidableEq, Repr

/-- A host interaction (70_reset_and_hazards.md R437); a Program is named by its place in `State.programs`. -/
inductive HostRequest where
  /-- `prepare(code)` -/
  | prepare (code : List Byte)
  /-- set up InitR of a Program -/
  | setInitR (p : Nat) (r : InitRegs)
  /-- set up GlobalData of a Program: any list. The spec gives no meaning to one of 1 to 63 bytes (20_memory.md R85);
  that such a list is accepted and copied as it stands is the model's choice (DESIGN CHOICE, log entry 23) -/
  | setGlobalData (p : Nat) (data : List Byte)
  /-- set up bytes of Mem, anywhere, the guard bytes included -/
  | writeMem (addr : Nat) (data : List Byte)
  /-- `execute(P)` -/
  | execute (p : Nat)
deriving DecidableEq, Repr

/-- What the last call returned to the host (70_reset_and_hazards.md R437). -/
inductive Reply where
  /-- no call has returned yet -/
  | none
  /-- `prepare` returned the Program at this place -/
  | prepared (p : Nat)
  /-- `prepare` refused the bytecode (30_encoding.md R139) -/
  | prepareRefused
  /-- a set-up was done -/
  | done
  /-- `execute` returned -/
  | executed (r : ExecResult)
deriving DecidableEq, Repr

/-- The state of the machine. -/
structure State where
  /-- the implementation parameters, which no step changes (00_scope.md R12 to R19; log entry 1) -/
  cfg : Config
  /-- idle, running or ended (43_control.md R300, 60_exceptions.md R411) -/
  phase : Phase
  /-- R0 to R7 (10_state.md R30) -/
  regs : Regs
  /-- the flags word F (10_state.md R37) -/
  f : Word
  /-- the instruction pointer IP, an index into the Program (10_state.md R34) -/
  ip : Nat
  /-- the operations budget (10_state.md R40) -/
  budget : Int
  /-- some STANDARD step of this execute was declined (70_reset_and_hazards.md R431) -/
  declined : Bool
  /-- the data memory (20_memory.md R70) -/
  mem : Memory
  /-- the Program objects made so far (10_state.md R42; log entry 17) -/
  programs : List Program
  /-- the place of the Program being executed (70_reset_and_hazards.md R430; log entry 17) -/
  cur : Nat
  /-- the decoder's bit reader as the last `prepare` left it (30_encoding.md R100; log entry 15) -/
  reader : BitReader
  /-- what the host asks for next, first request first (70_reset_and_hazards.md R437; log entry 7) -/
  host : List HostRequest
  /-- what the last call returned (70_reset_and_hazards.md R431, R437; log entry 7) -/
  reply : Reply
deriving DecidableEq, Repr

/-- The machine's faults. The VM itself has none (60_exceptions.md R400). -/
inductive Fault where
  /-- Raised by the fetch of a running instance at IP >= CmdCount. 10_state.md R36 says that no fetch does this, and
  no run from a well-formed state reaches it. Safe: the model stops where the spec gives no instruction to run. -/
  | ipBeyondProgram
deriving DecidableEq, Repr

/-- The reasons a step has no meaning. None of them is an instruction's (60_exceptions.md R400). -/
inductive Refusal where
  /-- Raised by an arm of `exec` whose instruction has no meaning yet. Safe. No arm raises it. -/
  | notModelled (mnemonic : String)
  /-- Raised by a host request that names a Program which does not exist: outside the host's contract
  (70_reset_and_hazards.md R437; log entry 11). Safe. -/
  | noSuchProgram (p : Nat)
  /-- Raised by a host write that reaches past the 0x40004 bytes of memory (20_memory.md R70; log entry 11). Safe. -/
  | writeOutsideMemory (addr : Nat)
deriving DecidableEq, Repr

/-- The outcome of one step. -/
abbrev StepResult := Host.Outcome State Fault Refusal

/-- InitR before the host sets it (log entry 22). -/
def InitRegs.zero : InitRegs := ⟨0#32, 0#32, 0#32, 0#32, 0#32, 0#32, 0#32⟩

/-- A new instance (70_reset_and_hazards.md R432), idle, with no Program and no host request. The parameters are the
spec's defaults; the registers, F, IP, the budget and Mem, to which the spec gives no value here, hold the values
of log entries 2, 3 and 4. -/
def State.reset : State where
  cfg := Config.default
  phase := .idle
  regs := ⟨0#32, 0#32, 0#32, 0#32, 0#32, 0#32, 0#32, memSizeWord⟩
  f := 0#32
  ip := 0
  budget := maxOps
  declined := false
  mem := []
  programs := []
  cur := 0
  reader := ⟨[], 0⟩
  host := []
  reply := .none

/-! ## Named updates, one for each field a step writes -/

/-- Replace the register file. -/
def State.setRegs (s : State) (rs : Regs) : State := { s with regs := rs }

/-- Replace the flags word. -/
def State.setF (s : State) (v : Word) : State := { s with f := v }

/-- Replace the instruction pointer. -/
def State.setIp (s : State) (i : Nat) : State := { s with ip := i }

/-- Replace the budget. -/
def State.setBudget (s : State) (b : Int) : State := { s with budget := b }

/-- Replace the memory. -/
def State.setMem (s : State) (m : Memory) : State := { s with mem := m }

/-- Replace the phase. -/
def State.setPhase (s : State) (p : Phase) : State := { s with phase := p }

/-- Replace the declined flag. -/
def State.setDeclined (s : State) (b : Bool) : State := { s with declined := b }

/-- Replace the Programs. -/
def State.setPrograms (s : State) (ps : List Program) : State := { s with programs := ps }

/-- Replace the reply to the host. -/
def State.setReply (s : State) (r : Reply) : State := { s with reply := r }

/-- Replace the host's pending requests. -/
def State.setHost (s : State) (h : List HostRequest) : State := { s with host := h }

end Sys2Proof.Machine
end

