-- ==== Sys2Proof/Machine/Ops.lean ====
section
/-! DEFINITION. The named operations over memory, registers, the instruction pointer and the budget. The VM takes no
exception (60_exceptions.md R400, R405); what ends an `execute` is `finish`. -/

namespace Sys2Proof.Machine

/-! ## Registers -/

/-- `R[i]` (00_scope.md R22). -/
def Regs.get (rs : Regs) : Reg → Word
  | .r0 => rs.r0 | .r1 => rs.r1 | .r2 => rs.r2 | .r3 => rs.r3
  | .r4 => rs.r4 | .r5 => rs.r5 | .r6 => rs.r6 | .r7 => rs.r7

/-- `R[i] <- v` (00_scope.md R22). -/
def Regs.set (rs : Regs) (r : Reg) (v : Word) : Regs :=
  match r with
  | .r0 => { rs with r0 := v } | .r1 => { rs with r1 := v } | .r2 => { rs with r2 := v } | .r3 => { rs with r3 := v }
  | .r4 => { rs with r4 := v } | .r5 => { rs with r5 := v } | .r6 => { rs with r6 := v } | .r7 => { rs with r7 := v }

/-- The registers R0 to R7 in order. -/
def Regs.toList (rs : Regs) : List Word :=
  [rs.r0, rs.r1, rs.r2, rs.r3, rs.r4, rs.r5, rs.r6, rs.r7]

/-- Register `r` of a state. -/
def State.reg (s : State) (r : Reg) : Word := s.regs.get r

/-- The state with register `r` set. -/
def State.setReg (s : State) (r : Reg) (v : Word) : State := s.setRegs (s.regs.set r v)

/-! ## Bytes of memory -/

/-- What a byte with no cell reads as (10_state.md R47; log entry 2). -/
def unlistedByte : Byte := 0#8

/-- The byte at an address. -/
def readByte : Memory → Nat → Byte
  | [], _ => unlistedByte
  | (k, b) :: m, a => if k = a then b else readByte m a

/-- The memory with no cell at an address. -/
def eraseCell : Memory → Nat → Memory
  | [], _ => []
  | (k, b) :: m, a => if k = a then eraseCell m a else (k, b) :: eraseCell m a

/-- The memory with a cell put before the first cell of a higher address. -/
def insertCell : Memory → Nat → Byte → Memory
  | [], a, b => [(a, b)]
  | (k, c) :: m, a, b => if a < k then (a, b) :: (k, c) :: m else (k, c) :: insertCell m a b

/-- The memory with one byte written, in canonical form if it was. -/
def writeByte (m : Memory) (a : Nat) (b : Byte) : Memory :=
  if b = unlistedByte then eraseCell m a else insertCell (eraseCell m a) a b

/-- The number of bytes of memory, the guard bytes included (20_memory.md R70). -/
abbrev memBytes : Nat := memSize + guardBytes

/-- The canonical form: addresses strictly rising and inside memory, no cell equal to what an unlisted byte reads
as. -/
def Memory.wf : Memory → Bool
  | [] => true
  | (k, b) :: m => decide (k < memBytes) && decide (b ≠ unlistedByte) && m.all (fun c => decide (k < c.1)) && Memory.wf m

/-- Bytes written one after the other from an address. -/
def writeBytes : Memory → Nat → List Byte → Memory
  | m, _, [] => m
  | m, a, b :: bs => writeBytes (writeByte m a b) (a + 1) bs

/-- `n` bytes read from an address. -/
def readBytes (m : Memory) (a : Nat) : Nat → List Byte
  | 0 => []
  | n + 1 => readByte m a :: readBytes m (a + 1) n

/-! ## The memory interface (20_memory.md R71 to R75) -/

/-- Address formation: every address is masked to 18 bits (20_memory.md R71). -/
def maskAddr (x : Word) : Nat := (x &&& memMask).toNat

/-- `MemRead(a, 1)`, zero-extended (20_memory.md R72). -/
def memRead8 (m : Memory) (a : Nat) : Word := (readByte m a).setWidth 32

/-- `MemRead(a, 4)`, little-endian; the tail is not masked again (20_memory.md R72, R73). -/
def memRead32 (m : Memory) (a : Nat) : Word :=
  memRead8 m a ||| (memRead8 m (a + 1) <<< 8) ||| (memRead8 m (a + 2) <<< 16) ||| (memRead8 m (a + 3) <<< 24)

/-- Byte `i` of a word: bits 8i+7 to 8i. -/
def byteOf (v : Word) (i : Nat) : Byte := v.extractLsb' (8 * i) 8

/-- `MemWrite(a, 1, v)` (20_memory.md R74). -/
def memWrite8 (m : Memory) (a : Nat) (v : Word) : Memory := writeByte m a (byteOf v 0)

/-- `MemWrite(a, 4, v)`, little-endian; the tail is not masked again (20_memory.md R73, R74). -/
def memWrite32 (m : Memory) (a : Nat) (v : Word) : Memory :=
  writeByte (writeByte (writeByte (writeByte m a (byteOf v 0)) (a + 1) (byteOf v 1)) (a + 2) (byteOf v 2))
    (a + 3) (byteOf v 3)

/-! ## The Program being executed -/

/-- A Program object with no instruction, read where no Program stands. -/
def Program.empty : Program := ⟨[], [], InitRegs.zero, [], 0#32, 0#32⟩

/-- The Program being executed. -/
def State.program (s : State) : Program := s.programs.getD s.cur Program.empty

/-- `CmdCount` (00_scope.md R28). -/
def State.cmdCount (s : State) : Nat := s.program.cmd.length

/-- The fetch `Cmd[IP]` (43_control.md R301): from the decoded list, never from memory (20_memory.md R90). -/
def fetch (s : State) : Option Instr := s.program.cmd[s.ip]?

/-! ## Advance, finish and setIP (43_control.md R300, R301) -/

/-- After an instruction that does not transfer control: IP + 1 and one budget decrement (43_control.md R301). -/
def advance (s : State) : State := (s.setIp (s.ip + 1)).setBudget (s.budget - 1)

/-- `finish(o)`: the loop of this `execute` is over (43_control.md R300). -/
def finish (s : State) (o : ExecOutcome) : State := s.setPhase (.ended o)

/-- How `setIP` comes back: it set IP, or it finished the `execute`. -/
inductive Transfer where
  | continued (s : State)
  | ended (s : State)

/-- The state a transfer leaves. -/
def Transfer.state : Transfer → State
  | .continued s => s
  | .ended s => s

/-- `setIP(t)` (43_control.md R300): the bounds test, then the decrement, then the budget test. -/
def setIP (s : State) (t : Word) : Transfer :=
  if s.cmdCount ≤ t.toNat then .ended (finish s .finished)
  else
    let s1 := s.setBudget (s.budget - 1)
    if s1.budget ≤ 0 then .ended (finish s1 .exhausted) else .continued (s1.setIp t.toNat)

/-! ## The stack (10_state.md R31, 44_stack.md R330) -/

/-- `R[7] <- R[7] - 4`, mod 2^32. -/
def decSp (s : State) : State := s.setReg .r7 (s.reg .r7 - 4#32)

/-- `R[7] <- R[7] + 4`, mod 2^32. -/
def incSp (s : State) : State := s.setReg .r7 (s.reg .r7 + 4#32)

/-- `MemWrite(R[7] & MEMMASK, 4, v)`. -/
def storeTop (s : State) (v : Word) : State := s.setMem (memWrite32 s.mem (maskAddr (s.reg .r7)) v)

/-- `MemRead(R[7] & MEMMASK, 4)`. -/
def loadTop (s : State) : Word := memRead32 s.mem (maskAddr (s.reg .r7))

/-- The stores of PUSHA: each value at the masked slot, the slot moving down by 4 (44_stack.md R334). -/
def pushWords : Memory → Word → List Word → Memory
  | m, _, [] => m
  | m, sp, v :: vs => pushWords (memWrite32 m (maskAddr sp) v) (sp - 4#32) vs

end Sys2Proof.Machine
end

