-- ==== Sys2Proof/Machine/Operands.lean ====
section
/-! DEFINITION. Operand resolution and the reads and writes of operand locations (20_memory.md R79 to R81). -/

namespace Sys2Proof.Machine

/-- The operand width `w`: 8 or 32 bits (00_scope.md R25). -/
inductive Width where
  | byte
  | dword
deriving DecidableEq, Repr

/-- `w` is 8 when the byte-mode bit is 1 and 32 otherwise (00_scope.md R25). -/
def widthOf (bm : Bool) : Width := if bm then .byte else .dword

/-- A location: a resolved operand with a masked address (00_scope.md R28). -/
inductive Loc where
  | reg (r : Reg)
  | imm (v : Word)
  | addr (a : Nat)
deriving DecidableEq, Repr

/-- Operand resolution with the register values of the moment (20_memory.md R79). -/
def resolve (rs : Regs) : Operand → Loc
  | .reg r => .reg r
  | .imm v => .imm v
  | .mem r d => .addr (maskAddr (rs.get r + d))
  | .memAbs d => .addr (maskAddr d)

/-- A value taken at a width: bits 7:0 zero-extended, or all 32 bits. -/
def lowPart (w : Width) (v : Word) : Word :=
  match w with
  | .byte => v &&& 0xFF#32
  | .dword => v

/-- `ReadOp(loc, w)` (20_memory.md R80). -/
def readOp (s : State) (loc : Loc) (w : Width) : Word :=
  match loc with
  | .reg r => lowPart w (s.reg r)
  | .imm v => lowPart w v
  | .addr a => match w with
    | .byte => memRead8 s.mem a
    | .dword => memRead32 s.mem a

/-- What a write of width `w` makes of a register that held `old` (20_memory.md R81, 10_state.md R33). -/
def mergeReg (brw : ByteRegWrite) (w : Width) (old v : Word) : Word :=
  match w with
  | .dword => v
  | .byte => match brw with
    | .merge => (old &&& 0xFFFFFF00#32) ||| (v &&& 0xFF#32)
    | .zext => v &&& 0xFF#32

/-- `WriteOp(loc, w, v)`; a write to an immediate is discarded (20_memory.md R81). -/
def writeOp (s : State) (loc : Loc) (w : Width) (v : Word) : State :=
  match loc with
  | .reg r => s.setReg r (mergeReg s.cfg.byteRegWrite w (s.reg r) v)
  | .imm _ => s
  | .addr a => match w with
    | .byte => s.setMem (memWrite8 s.mem a v)
    | .dword => s.setMem (memWrite32 s.mem a v)

end Sys2Proof.Machine
end

