-- ==== Sys2Proof/Machine/Flags.lean ====
section
/-! DEFINITION. The flags word and every flag computation (00_scope.md R24, 10_state.md R37 to R39,
41_arithmetic.md R220 to R232, 42_logic_shift.md R275 to R278). -/

namespace Sys2Proof.Machine

/-- `FC`, carry (00_scope.md R24). -/
def FC : Word := 0x00000001#32

/-- `FZ`, zero (00_scope.md R24). -/
def FZ : Word := 0x00000002#32

/-- `FS`, sign (00_scope.md R24). -/
def FS : Word := 0x80000000#32

/-- `ZS(r) = (r == 0) ? FZ : (r & FS)` (00_scope.md R24). -/
def zs (r : Word) : Word := if r = 0#32 then FZ else r &&& FS

/-- `c ? FC : 0`. -/
def carryBit (c : Bool) : Word := if c then FC else 0#32

/-- The carry-type flag formula over a carry and a zero/sign term (41_arithmetic.md R220). -/
def carryFlags (ff : FlagFormula) (c : Bool) (z : Word) : Word :=
  match ff with
  | .literal => if c then FC else z
  | .idiomatic => carryBit c ||| z

/-! ## ADD, SUB and the compares (41_arithmetic.md R222, R224, R239) -/

/-- ADD's result: masked to 8 bits in byte mode (41_arithmetic.md R222). -/
def addResult (w : Width) (v1 v2 : Word) : Word := lowPart w (v1 + v2)

/-- ADD's zero/sign term: byte mode takes FS from bit 7 of the 8-bit result (41_arithmetic.md R222). -/
def addZs (w : Width) (r : Word) : Word :=
  match w with
  | .byte => if r = 0#32 then FZ else if r &&& 0x80#32 ≠ 0#32 then FS else 0#32
  | .dword => zs r

/-- ADD's flags (41_arithmetic.md R222). -/
def addFlags (ff : FlagFormula) (w : Width) (v1 v2 : Word) : Word :=
  let r := addResult w v1 v2
  carryFlags ff (decide (r < v1)) (addZs w r)

/-- SUB's result, not masked in byte mode (41_arithmetic.md R224). -/
def subResult (v1 v2 : Word) : Word := v1 - v2

/-- The flags of SUB, CMPB and CMPD, from the unmasked difference (41_arithmetic.md R224, R239). -/
def subFlags (ff : FlagFormula) (v1 v2 : Word) : Word :=
  let r := subResult v1 v2
  carryFlags ff (decide (v1 < r)) (zs r)

/-! ## ADC and SBB (41_arithmetic.md R226, R227) -/

/-- ADC's result: masked to 8 bits in byte mode (41_arithmetic.md R226). -/
def adcResult (w : Width) (fc v1 v2 : Word) : Word := lowPart w (v1 + v2 + fc)

/-- ADC's flags; ZS tests bit 31 even in byte mode (41_arithmetic.md R226). -/
def adcFlags (ff : FlagFormula) (w : Width) (fc v1 v2 : Word) : Word :=
  let r := adcResult w fc v1 v2
  carryFlags ff (decide (r < v1) || (r == v1 && fc == 1#32)) (zs r)

/-- SBB's result: masked to 8 bits in byte mode (41_arithmetic.md R227). -/
def sbbResult (w : Width) (fc v1 v2 : Word) : Word := lowPart w (v1 - v2 - fc)

/-- SBB's flags; ZS tests bit 31 even in byte mode (41_arithmetic.md R227). -/
def sbbFlags (ff : FlagFormula) (w : Width) (fc v1 v2 : Word) : Word :=
  let r := sbbResult w fc v1 v2
  carryFlags ff (decide (v1 < r) || (r == v1 && fc == 1#32)) (zs r)

/-! ## INC, DEC, NEG (41_arithmetic.md R228, R230, R232) -/

/-- INC's result: masked to 8 bits in byte mode (41_arithmetic.md R228). -/
def incResult (w : Width) (v : Word) : Word := lowPart w (v + 1#32)

/-- INC's flags (41_arithmetic.md R228). -/
def incFlags (w : Width) (v : Word) : Word := zs (incResult w v)

/-- DEC's result, not masked in byte mode (41_arithmetic.md R230). -/
def decResult (v : Word) : Word := v - 1#32

/-- DEC's flags, from the unmasked difference (41_arithmetic.md R230). -/
def decFlags (v : Word) : Word := zs (decResult v)

/-- NEG's result, not masked in byte mode (41_arithmetic.md R232). -/
def negResult (v : Word) : Word := 0#32 - v

/-- NEG's flags (41_arithmetic.md R232). -/
def negFlags (v : Word) : Word :=
  let r := negResult v
  if r = 0#32 then FZ else FC ||| (r &&& FS)

/-! ## Shifts (42_logic_shift.md R275 to R278) -/

/-- The shift amount `k = v2 & 31` (42_logic_shift.md R275). -/
def shiftAmount (v2 : Word) : Nat := (v2 &&& 31#32).toNat

/-- The amount the carry is taken from, `k1 = (v2 - 1) & 31` (42_logic_shift.md R275). -/
def carryAmount (v2 : Word) : Nat := ((v2 - 1#32) &&& 31#32).toNat

/-- SHL's result (42_logic_shift.md R276). -/
def shlResult (v1 v2 : Word) : Word := v1 <<< shiftAmount v2

/-- SHL's flags (42_logic_shift.md R276). -/
def shlFlags (v1 v2 : Word) : Word :=
  zs (shlResult v1 v2) ||| carryBit (decide ((v1 <<< carryAmount v2) &&& 0x80000000#32 ≠ 0#32))

/-- SHR's result (42_logic_shift.md R277). -/
def shrResult (v1 v2 : Word) : Word := v1 >>> shiftAmount v2

/-- The carry of SHR and SAR (42_logic_shift.md R277, R278). -/
def rightCarry (v1 v2 : Word) : Word := (v1 >>> carryAmount v2) &&& 1#32

/-- SHR's flags (42_logic_shift.md R277). -/
def shrFlags (v1 v2 : Word) : Word := zs (shrResult v1 v2) ||| rightCarry v1 v2

/-- SAR's result: bit 31 of the value is copied (42_logic_shift.md R278). -/
def sarResult (v1 v2 : Word) : Word := v1.sshiftRight (shiftAmount v2)

/-- SAR's flags (42_logic_shift.md R278). -/
def sarFlags (v1 v2 : Word) : Word := zs (sarResult v1 v2) ||| rightCarry v1 v2

/-! ## The conditions of the conditional jumps (10_state.md R39) -/

/-- Some flag of `mask` is set in F. -/
def anyFlag (f mask : Word) : Bool := decide (f &&& mask ≠ 0#32)

/-! ## Shapes of instruction bodies -/

/-- op1 is read, combined with op2, written, and the flags are written (00_scope.md R25). -/
def aluBinary (w : Width) (op1 op2 : Operand) (result flags : Word → Word → Word) (s : State) : StepResult :=
  let loc1 := resolve s.regs op1
  let loc2 := resolve s.regs op2
  let v1 := readOp s loc1 w
  let v2 := readOp s loc2 w
  .next (advance ((writeOp s loc1 w (result v1 v2)).setF (flags v1 v2)))

/-- op1 is read, combined with op2 and written; no flag is written. -/
def quietBinary (w : Width) (op1 op2 : Operand) (result : Word → Word → Word) (s : State) : StepResult :=
  let loc1 := resolve s.regs op1
  let loc2 := resolve s.regs op2
  .next (advance (writeOp s loc1 w (result (readOp s loc1 w) (readOp s loc2 w))))

/-- op1 and op2 are only read, and the flags are written. -/
def flagsOnly (w : Width) (op1 op2 : Operand) (flags : Word → Word → Word) (s : State) : StepResult :=
  let loc1 := resolve s.regs op1
  let loc2 := resolve s.regs op2
  .next (advance (s.setF (flags (readOp s loc1 w) (readOp s loc2 w))))

/-- op1 is read and written, and the flags are written. -/
def aluUnary (w : Width) (op1 : Operand) (result flags : Word → Word) (s : State) : StepResult :=
  let loc1 := resolve s.regs op1
  let v := readOp s loc1 w
  .next (advance ((writeOp s loc1 w (result v)).setF (flags v)))

/-- op1 is read and written; no flag is written. -/
def quietUnary (w : Width) (op1 : Operand) (result : Word → Word) (s : State) : StepResult :=
  let loc1 := resolve s.regs op1
  .next (advance (writeOp s loc1 w (result (readOp s loc1 w))))

/-- `v <- ReadOp(loc2, wr) ; WriteOp(loc1, ww, f v)`; no flag is written. -/
def moveOp (wr ww : Width) (op1 op2 : Operand) (f : Word → Word) (s : State) : StepResult :=
  let loc1 := resolve s.regs op1
  let loc2 := resolve s.regs op2
  .next (advance (writeOp s loc1 ww (f (readOp s loc2 wr))))

end Sys2Proof.Machine
end

