-- ==== Sys2Proof/Machine/Arith.lean ====
section
/-! DEFINITION. Arithmetic and compare instructions (41_arithmetic.md). -/

namespace Sys2Proof.Machine

/-- ADD (41_arithmetic.md R222). -/
def execAdd (bm : Bool) (op1 op2 : Operand) (s : State) : StepResult :=
  aluBinary (widthOf bm) op1 op2 (addResult (widthOf bm)) (addFlags s.cfg.flagFormula (widthOf bm)) s

/-- SUB (41_arithmetic.md R224). -/
def execSub (bm : Bool) (op1 op2 : Operand) (s : State) : StepResult :=
  aluBinary (widthOf bm) op1 op2 subResult (subFlags s.cfg.flagFormula) s

/-- ADC (41_arithmetic.md R226). -/
def execAdc (bm : Bool) (op1 op2 : Operand) (s : State) : StepResult :=
  let fc := s.f &&& FC
  aluBinary (widthOf bm) op1 op2 (adcResult (widthOf bm) fc) (adcFlags s.cfg.flagFormula (widthOf bm) fc) s

/-- SBB (41_arithmetic.md R227). -/
def execSbb (bm : Bool) (op1 op2 : Operand) (s : State) : StepResult :=
  let fc := s.f &&& FC
  aluBinary (widthOf bm) op1 op2 (sbbResult (widthOf bm) fc) (sbbFlags s.cfg.flagFormula (widthOf bm) fc) s

/-- INC (41_arithmetic.md R228). -/
def execInc (bm : Bool) (op1 : Operand) (s : State) : StepResult :=
  aluUnary (widthOf bm) op1 (incResult (widthOf bm)) (incFlags (widthOf bm)) s

/-- DEC (41_arithmetic.md R230). -/
def execDec (bm : Bool) (op1 : Operand) (s : State) : StepResult :=
  aluUnary (widthOf bm) op1 decResult decFlags s

/-- NEG (41_arithmetic.md R232). -/
def execNeg (bm : Bool) (op1 : Operand) (s : State) : StepResult :=
  aluUnary (widthOf bm) op1 negResult negFlags s

/-- MUL: the low half of the product; F is unchanged (41_arithmetic.md R234). -/
def execMul (bm : Bool) (op1 op2 : Operand) (s : State) : StepResult :=
  quietBinary (widthOf bm) op1 op2 (fun v1 v2 => v1 * v2) s

/-- DIV: the unsigned quotient; by zero nothing is written; F is unchanged (41_arithmetic.md R235). -/
def execDiv (bm : Bool) (op1 op2 : Operand) (s : State) : StepResult :=
  if readOp s (resolve s.regs op2) (widthOf bm) = 0#32 then .next (advance s)
  else quietBinary (widthOf bm) op1 op2 (fun v1 v2 => v1 / v2) s

/-- CMP executed unoptimised: as CMPB or CMPD (41_arithmetic.md R238). -/
def execCmp (bm : Bool) (op1 op2 : Operand) (s : State) : StepResult :=
  flagsOnly (widthOf bm) op1 op2 (subFlags s.cfg.flagFormula) s

/-- CMPB (41_arithmetic.md R239). -/
def execCmpb (op1 op2 : Operand) (s : State) : StepResult :=
  flagsOnly .byte op1 op2 (subFlags s.cfg.flagFormula) s

/-- CMPD (41_arithmetic.md R240). -/
def execCmpd (op1 op2 : Operand) (s : State) : StepResult :=
  flagsOnly .dword op1 op2 (subFlags s.cfg.flagFormula) s

/-- ADDB (41_arithmetic.md R241). -/
def execAddb (op1 op2 : Operand) (s : State) : StepResult := quietBinary .byte op1 op2 (fun v1 v2 => v1 + v2) s

/-- ADDD (41_arithmetic.md R242). -/
def execAddd (op1 op2 : Operand) (s : State) : StepResult := quietBinary .dword op1 op2 (fun v1 v2 => v1 + v2) s

/-- SUBB (41_arithmetic.md R243). -/
def execSubb (op1 op2 : Operand) (s : State) : StepResult := quietBinary .byte op1 op2 (fun v1 v2 => v1 - v2) s

/-- SUBD (41_arithmetic.md R244). -/
def execSubd (op1 op2 : Operand) (s : State) : StepResult := quietBinary .dword op1 op2 (fun v1 v2 => v1 - v2) s

/-- INCB (41_arithmetic.md R245). -/
def execIncb (op1 : Operand) (s : State) : StepResult := quietUnary .byte op1 (fun v => v + 1#32) s

/-- INCD (41_arithmetic.md R246). -/
def execIncd (op1 : Operand) (s : State) : StepResult := quietUnary .dword op1 (fun v => v + 1#32) s

/-- DECB (41_arithmetic.md R247). -/
def execDecb (op1 : Operand) (s : State) : StepResult := quietUnary .byte op1 (fun v => v - 1#32) s

/-- DECD (41_arithmetic.md R248). -/
def execDecd (op1 : Operand) (s : State) : StepResult := quietUnary .dword op1 (fun v => v - 1#32) s

/-- NEGB (41_arithmetic.md R249). -/
def execNegb (op1 : Operand) (s : State) : StepResult := quietUnary .byte op1 (fun v => 0#32 - v) s

/-- NEGD (41_arithmetic.md R250). -/
def execNegd (op1 : Operand) (s : State) : StepResult := quietUnary .dword op1 (fun v => 0#32 - v) s

end Sys2Proof.Machine
end

