-- ==== Sys2Proof/Machine/Control.lean ====
section
/-! DEFINITION. Control transfer: jumps, CALL and RET (43_control.md R302 to R313). -/

namespace Sys2Proof.Machine

/-- The shape of every jump: `if cond: setIP(ReadOp(loc1, 32))`, else IP + 1 (43_control.md section 2, R302). -/
def jumpIf (cond : Bool) (op1 : Operand) (s : State) : StepResult :=
  if cond then .next (setIP s (readOp s (resolve s.regs op1) .dword)).state else .next (advance s)

/-- JMP (43_control.md R303). -/
def execJmp (op1 : Operand) (s : State) : StepResult := jumpIf true op1 s

/-- JZ: FZ set (43_control.md R304). -/
def execJz (op1 : Operand) (s : State) : StepResult := jumpIf (anyFlag s.f FZ) op1 s

/-- JNZ: FZ clear (43_control.md R305). -/
def execJnz (op1 : Operand) (s : State) : StepResult := jumpIf (!anyFlag s.f FZ) op1 s

/-- JS: FS set (43_control.md R306). -/
def execJs (op1 : Operand) (s : State) : StepResult := jumpIf (anyFlag s.f FS) op1 s

/-- JNS: FS clear (43_control.md R307). -/
def execJns (op1 : Operand) (s : State) : StepResult := jumpIf (!anyFlag s.f FS) op1 s

/-- JB: FC set (43_control.md R308). -/
def execJb (op1 : Operand) (s : State) : StepResult := jumpIf (anyFlag s.f FC) op1 s

/-- JBE: FC or FZ set (43_control.md R309). -/
def execJbe (op1 : Operand) (s : State) : StepResult := jumpIf (anyFlag s.f (FC ||| FZ)) op1 s

/-- JA: FC and FZ clear (43_control.md R310). -/
def execJa (op1 : Operand) (s : State) : StepResult := jumpIf (!anyFlag s.f (FC ||| FZ)) op1 s

/-- JAE: FC clear (43_control.md R311). -/
def execJae (op1 : Operand) (s : State) : StepResult := jumpIf (!anyFlag s.f FC) op1 s

/-- CALL: the return index IP + 1 is pushed, then the target is read and `setIP` called (43_control.md R312;
log entry 18). -/
def execCall (op1 : Operand) (s : State) : StepResult :=
  let loc1 := resolve s.regs op1
  let s1 := decSp s
  let s2 := storeTop s1 (BitVec.ofNat 32 (s.ip + 1))
  .next (setIP s2 (readOp s2 loc1 .dword)).state

/-- RET: with R7 >= MEMSIZE it finishes; else it pops an index, calls `setIP`, and adds 4 to R7 only if that
returned (43_control.md R313). -/
def execRet (s : State) : StepResult :=
  if memSizeWord ≤ s.reg .r7 then .next (finish s .finished)
  else match setIP s (loadTop s) with
    | .continued s1 => .next (incSp s1)
    | .ended s1 => .next s1

end Sys2Proof.Machine
end

