-- ==== Sys2Proof/Machine/Logic.lean ====
section
/-! DEFINITION. Logic and shift instructions (42_logic_shift.md). -/

namespace Sys2Proof.Machine

/-- AND (42_logic_shift.md R270). -/
def execAnd (bm : Bool) (op1 op2 : Operand) (s : State) : StepResult :=
  aluBinary (widthOf bm) op1 op2 (fun v1 v2 => v1 &&& v2) (fun v1 v2 => zs (v1 &&& v2)) s

/-- OR (42_logic_shift.md R271). -/
def execOr (bm : Bool) (op1 op2 : Operand) (s : State) : StepResult :=
  aluBinary (widthOf bm) op1 op2 (fun v1 v2 => v1 ||| v2) (fun v1 v2 => zs (v1 ||| v2)) s

/-- XOR (42_logic_shift.md R272). -/
def execXor (bm : Bool) (op1 op2 : Operand) (s : State) : StepResult :=
  aluBinary (widthOf bm) op1 op2 (fun v1 v2 => v1 ^^^ v2) (fun v1 v2 => zs (v1 ^^^ v2)) s

/-- TEST (42_logic_shift.md R273). -/
def execTest (bm : Bool) (op1 op2 : Operand) (s : State) : StepResult :=
  flagsOnly (widthOf bm) op1 op2 (fun v1 v2 => zs (v1 &&& v2)) s

/-- NOT: F is unchanged (42_logic_shift.md R274). -/
def execNot (bm : Bool) (op1 : Operand) (s : State) : StepResult :=
  quietUnary (widthOf bm) op1 (fun v => ~~~v) s

/-- SHL (42_logic_shift.md R276). -/
def execShl (bm : Bool) (op1 op2 : Operand) (s : State) : StepResult :=
  aluBinary (widthOf bm) op1 op2 shlResult shlFlags s

/-- SHR (42_logic_shift.md R277). -/
def execShr (bm : Bool) (op1 op2 : Operand) (s : State) : StepResult :=
  aluBinary (widthOf bm) op1 op2 shrResult shrFlags s

/-- SAR (42_logic_shift.md R278). -/
def execSar (bm : Bool) (op1 op2 : Operand) (s : State) : StepResult :=
  aluBinary (widthOf bm) op1 op2 sarResult sarFlags s

end Sys2Proof.Machine
end

