-- ==== Sys2Proof/Machine/Move.lean ====
section
/-! DEFINITION. Data movement: MOV, MOVB, MOVD, MOVZX, MOVSX, XCHG (40_move.md). -/

namespace Sys2Proof.Machine

/-- `sext_8(v)` of a value of 8 bits (00_scope.md R20). -/
def sext8 (v : Word) : Word := (v.setWidth 8).signExtend 32

/-- MOV executed unoptimised: as MOVB or MOVD (40_move.md R200). -/
def execMov (bm : Bool) (op1 op2 : Operand) (s : State) : StepResult :=
  moveOp (widthOf bm) (widthOf bm) op1 op2 id s

/-- MOVB (40_move.md R201). -/
def execMovb (op1 op2 : Operand) (s : State) : StepResult := moveOp .byte .byte op1 op2 id s

/-- MOVD (40_move.md R202). -/
def execMovd (op1 op2 : Operand) (s : State) : StepResult := moveOp .dword .dword op1 op2 id s

/-- MOVZX: a byte read, 32 bits written (40_move.md R203). -/
def execMovzx (op1 op2 : Operand) (s : State) : StepResult := moveOp .byte .dword op1 op2 id s

/-- MOVSX: a byte read, its sign extension written (40_move.md R204). -/
def execMovsx (op1 op2 : Operand) (s : State) : StepResult := moveOp .byte .dword op1 op2 sext8 s

/-- XCHG: both reads before either write, op1 written before op2 (40_move.md R205). -/
def execXchg (bm : Bool) (op1 op2 : Operand) (s : State) : StepResult :=
  let w := widthOf bm
  let loc1 := resolve s.regs op1
  let loc2 := resolve s.regs op2
  let v1 := readOp s loc1 w
  let v2 := readOp s loc2 w
  .next (advance (writeOp (writeOp s loc1 w v2) loc2 w v1))

end Sys2Proof.Machine
end

