-- ==== Sys2Proof/Machine/Stack.lean ====
section
/-! DEFINITION. Stack instructions (44_stack.md). -/

namespace Sys2Proof.Machine

/-- PUSH: op1 is read after R7 changed, at the location resolved before (44_stack.md R330). -/
def execPush (op1 : Operand) (s : State) : StepResult :=
  let loc1 := resolve s.regs op1
  let s1 := decSp s
  .next (advance (storeTop s1 (readOp s1 loc1 .dword)))

/-- POP: the destination is written before R7 is incremented (44_stack.md R331). -/
def execPop (op1 : Operand) (s : State) : StepResult :=
  let loc1 := resolve s.regs op1
  .next (advance (incSp (writeOp s loc1 .dword (loadTop s))))

/-- PUSHA: R0 first, R7 last with its old value (44_stack.md R334). -/
def execPusha (s : State) : StepResult :=
  let sp := s.reg .r7
  .next (advance ((s.setMem (pushWords s.mem (sp - 4#32) s.regs.toList)).setReg .r7 (sp - 32#32)))

/-- POPA: R7 first, R0 last, from slots at the old R7 upward (44_stack.md R335). -/
def execPopa (s : State) : StepResult :=
  let sp := s.reg .r7
  let slot (i : Nat) : Word := memRead32 s.mem (maskAddr (sp + BitVec.ofNat 32 (4 * i)))
  .next (advance (s.setRegs
    { r0 := slot 7, r1 := slot 6, r2 := slot 5, r3 := slot 4, r4 := slot 3, r5 := slot 2, r6 := slot 1, r7 := slot 0 }))

/-- PUSHF: all 32 bits of F (44_stack.md R336). -/
def execPushf (s : State) : StepResult := .next (advance (storeTop (decSp s) s.f))

/-- POPF: F is replaced by the popped dword (44_stack.md R337). -/
def execPopf (s : State) : StepResult := .next (advance (incSp (s.setF (loadTop s))))

end Sys2Proof.Machine
end

