-- ==== Sys2Proof/Machine/System.lean ====
section
/-! DEFINITION. STANDARD with the standard-filter unit, and PRINT (45_system.md). -/

namespace Sys2Proof.Machine

/-- The precondition of a filter id over the registers (45_system.md R352). Every comparison is on u32 values. An
id outside 1 to 7 is declined (R351 clause 3). -/
def filterAccepts (id : Word) (rs : Regs) : Bool :=
  let size := rs.r4.toNat
  let channels := rs.r0.toNat
  match id.toNat with
  | 1 => decide (size ≤ memSize) && decide (4 ≤ size)
  | 2 => decide (size ≤ memSize) && decide (4 ≤ size)
  | 3 => decide (size ≤ memSize) && decide (21 ≤ size)
  | 4 => decide (3 ≤ size) && decide ((rs.r0 - 3#32).toNat ≤ size) && decide (rs.r1.toNat ≤ 2)
  | 5 => decide (size < memSize / 2) && decide (0 < channels) && decide (channels ≤ 128)
  | 6 => decide (size < memSize / 2) && decide (0 < channels) && decide (channels ≤ 1024)
  | 7 => decide (size < globalMemAddr / 2)
  | _ => false

/-- Bytes stored one after the other; a store outside memory is dropped (log entry 5). -/
def applyStores : Memory → List (Nat × Byte) → Memory
  | m, [] => m
  | m, (a, b) :: st => applyStores (if a < memBytes then writeByte m a b else m) st

/-- `STD_FILTER(id, R, Mem)` (45_system.md R351): `none` is Declined, `some Mem'` is Accepted. The transform's
stores, its output size and its output offset are free (log entry 5); the size and the offset end in the control
block (clause 4). -/
def stdFilter (id : Word) (rs : Regs) (m : Memory) : Option Memory :=
  if filterAccepts id rs then
    let m1 := applyStores m (Config.stdFilterWrites id rs.toList m)
    let m2 := memWrite32 m1 resultSizeAddr (Config.stdFilterSize id rs.toList m)
    some (memWrite32 m2 resultOffsetAddr (Config.stdFilterOffset id rs.toList m))
  else none

/-- STANDARD (45_system.md R354): an accepting filter replaces Mem, a decline sets `declined`. -/
def execStandard (op1 : Operand) (s : State) : StepResult :=
  match stdFilter (readOp s (resolve s.regs op1) .dword) s.regs s.mem with
  | some m => .next (advance (s.setMem m))
  | none => .next (advance (s.setDeclined true))

/-- PRINT: no operation (45_system.md R356). -/
def execPrint (s : State) : StepResult := .next (advance s)

end Sys2Proof.Machine
end

