-- ==== Sys2Proof/Machine/Dispatch.lean ====
section
/-! DEFINITION. The dispatch of an instruction to its meaning, one arm for each row of the opcode table. -/

namespace Sys2Proof.Machine

/-- The meaning of an instruction. -/
def exec (i : Instr) (s : State) : Host.Outcome State Fault Refusal :=
  match i with
  | .mov bm op1 op2 => Sys2Proof.Machine.execMov bm op1 op2 s
  | .cmp bm op1 op2 => Sys2Proof.Machine.execCmp bm op1 op2 s
  | .add bm op1 op2 => Sys2Proof.Machine.execAdd bm op1 op2 s
  | .sub bm op1 op2 => Sys2Proof.Machine.execSub bm op1 op2 s
  | .jz op1 => Sys2Proof.Machine.execJz op1 s
  | .jnz op1 => Sys2Proof.Machine.execJnz op1 s
  | .inc bm op1 => Sys2Proof.Machine.execInc bm op1 s
  | .dec bm op1 => Sys2Proof.Machine.execDec bm op1 s
  | .jmp op1 => Sys2Proof.Machine.execJmp op1 s
  | .xor bm op1 op2 => Sys2Proof.Machine.execXor bm op1 op2 s
  | .and bm op1 op2 => Sys2Proof.Machine.execAnd bm op1 op2 s
  | .or bm op1 op2 => Sys2Proof.Machine.execOr bm op1 op2 s
  | .test bm op1 op2 => Sys2Proof.Machine.execTest bm op1 op2 s
  | .js op1 => Sys2Proof.Machine.execJs op1 s
  | .jns op1 => Sys2Proof.Machine.execJns op1 s
  | .jb op1 => Sys2Proof.Machine.execJb op1 s
  | .jbe op1 => Sys2Proof.Machine.execJbe op1 s
  | .ja op1 => Sys2Proof.Machine.execJa op1 s
  | .jae op1 => Sys2Proof.Machine.execJae op1 s
  | .push op1 => Sys2Proof.Machine.execPush op1 s
  | .pop op1 => Sys2Proof.Machine.execPop op1 s
  | .call op1 => Sys2Proof.Machine.execCall op1 s
  | .ret => Sys2Proof.Machine.execRet s
  | .not bm op1 => Sys2Proof.Machine.execNot bm op1 s
  | .shl bm op1 op2 => Sys2Proof.Machine.execShl bm op1 op2 s
  | .shr bm op1 op2 => Sys2Proof.Machine.execShr bm op1 op2 s
  | .sar bm op1 op2 => Sys2Proof.Machine.execSar bm op1 op2 s
  | .neg bm op1 => Sys2Proof.Machine.execNeg bm op1 s
  | .pusha => Sys2Proof.Machine.execPusha s
  | .popa => Sys2Proof.Machine.execPopa s
  | .pushf => Sys2Proof.Machine.execPushf s
  | .popf => Sys2Proof.Machine.execPopf s
  | .movzx op1 op2 => Sys2Proof.Machine.execMovzx op1 op2 s
  | .movsx op1 op2 => Sys2Proof.Machine.execMovsx op1 op2 s
  | .xchg bm op1 op2 => Sys2Proof.Machine.execXchg bm op1 op2 s
  | .mul bm op1 op2 => Sys2Proof.Machine.execMul bm op1 op2 s
  | .div bm op1 op2 => Sys2Proof.Machine.execDiv bm op1 op2 s
  | .adc bm op1 op2 => Sys2Proof.Machine.execAdc bm op1 op2 s
  | .sbb bm op1 op2 => Sys2Proof.Machine.execSbb bm op1 op2 s
  | .print => Sys2Proof.Machine.execPrint s
  | .movb op1 op2 => Sys2Proof.Machine.execMovb op1 op2 s
  | .movd op1 op2 => Sys2Proof.Machine.execMovd op1 op2 s
  | .cmpb op1 op2 => Sys2Proof.Machine.execCmpb op1 op2 s
  | .cmpd op1 op2 => Sys2Proof.Machine.execCmpd op1 op2 s
  | .addb op1 op2 => Sys2Proof.Machine.execAddb op1 op2 s
  | .addd op1 op2 => Sys2Proof.Machine.execAddd op1 op2 s
  | .subb op1 op2 => Sys2Proof.Machine.execSubb op1 op2 s
  | .subd op1 op2 => Sys2Proof.Machine.execSubd op1 op2 s
  | .incb op1 => Sys2Proof.Machine.execIncb op1 s
  | .incd op1 => Sys2Proof.Machine.execIncd op1 s
  | .decb op1 => Sys2Proof.Machine.execDecb op1 s
  | .decd op1 => Sys2Proof.Machine.execDecd op1 s
  | .negb op1 => Sys2Proof.Machine.execNegb op1 s
  | .negd op1 => Sys2Proof.Machine.execNegd op1 s
  | .standard op1 => Sys2Proof.Machine.execStandard op1 s

end Sys2Proof.Machine
end

