-- ==== Sys2Proof/Machine/Prepare.lean ====
section
/-! DEFINITION. The program decoder `prepare`: checksum, signature match, static data, the decode loop and the
optimizer (30_encoding.md R130 to R150). -/

namespace Sys2Proof.Machine

/-! ## CRC32 and checksum (00_scope.md R17, 30_encoding.md R132) -/

/-- One bit step of the reflected CRC with polynomial 0xEDB88320 (00_scope.md R17). -/
def crcBit (c : Word) : Word :=
  if c.getLsbD 0 then (c >>> 1) ^^^ 0xEDB88320#32 else c >>> 1

/-- `n` bit steps. -/
def crcBits : Nat → Word → Word
  | 0, c => c
  | n + 1, c => crcBits n (crcBit c)

/-- The bytes taken into the CRC one after the other. -/
def crcBytes : Word → List Byte → Word
  | c, [] => c
  | c, b :: bs => crcBytes (crcBits 8 (c ^^^ b.setWidth 32)) bs

/-- The default CRC: initial value and final XOR 0xFFFFFFFF (00_scope.md R17). -/
def crc32 (bs : List Byte) : Word := crcBytes 0xFFFFFFFF#32 bs ^^^ 0xFFFFFFFF#32

/-- `CRC32` of the parameters (00_scope.md R17; log entry 6). -/
def crcOf (c : CrcFunction) (bs : List Byte) : Word :=
  match c with
  | .ieee8023 => crc32 bs
  | .other n => Config.otherCrc n bs

/-- The XOR of a list of bytes. -/
def xorBytes : List Byte → Byte
  | [] => 0#8
  | b :: bs => b ^^^ xorBytes bs

/-- The checksum matches: the XOR of bytes 1 to L-1 equals byte 0 (30_encoding.md R132). -/
def checksumOk : List Byte → Bool
  | [] => false
  | b :: bs => xorBytes bs == b

/-- The first signature entry of this length and CRC (30_encoding.md R133). -/
def findSignature (cfg : Config) (code : List Byte) : Option Signature :=
  cfg.stdSignatures.find? fun e => e.len == code.length && e.crc == crcOf cfg.crc code

/-! ## Static data and the decode loop (30_encoding.md R130, R134) -/

/-- The static-data loop: bytes are read while the cursor is before the limit and fewer than `n` are read. The
fuel, one for each byte of the bytecode, does not run out first (log entry 26). -/
def readStatic : Nat → Nat → Nat → BitReader → List Byte × BitReader
  | 0, _, _, r => ([], r)
  | fuel + 1, limit, n, r =>
    if r.before limit && decide (0 < n) then
      let b : Byte := (r.peek16 >>> 8).setWidth 8
      let (bs, r') := readStatic fuel limit (n - 1) (r.advance 8)
      (b :: bs, r')
    else ([], r)

/-- The flag bit and the static-data block (30_encoding.md R134). -/
def readStaticBlock (fuel limit : Nat) (r : BitReader) : List Byte × BitReader :=
  let flag := r.peek16
  let r1 := r.advance 1
  if flag &&& 0x8000#32 ≠ 0#32 then
    let (v, r2) := readVLQ r1
    readStatic fuel limit (v + 1#32).toNat r2
  else ([], r1)

/-- The decode loop: instructions from index `k` while the cursor is before the limit (30_encoding.md R130). The
fuel, one for each bit of the bytecode, does not run out first (log entry 26). -/
def decodeLoop (bi : ByteImm) : Nat → Nat → Nat → BitReader → List Instr × BitReader
  | 0, _, _, r => ([], r)
  | fuel + 1, limit, k, r =>
    if r.before limit then
      let (i, r1) := decodeInstr bi k r
      let (is, r2) := decodeLoop bi fuel limit (k + 1) r1
      (i :: is, r2)
    else ([], r)

/-! ## Optimizer (30_encoding.md R145 to R147) -/

/-- A later instruction ends the scan as a flag consumer: J, P or U (30_encoding.md R146). -/
def needsFlags (i : Instr) : Bool :=
  let info := opInfo i.opcode
  info.j || info.p || info.u

/-- The instruction has C in the table (30_encoding.md R121). -/
def changesFlags (i : Instr) : Bool := (opInfo i.opcode).c

/-- The scan of the dead-flag rule over the later instructions: `required` (30_encoding.md R146). -/
def flagsRequired : List Instr → Bool
  | [] => false
  | j :: rest => if needsFlags j then true else if changesFlags j then false else flagsRequired rest

/-- The opcode change of one instruction; `required` is its scan's result (30_encoding.md R145, R146). -/
def specialise (required : Bool) : Instr → Instr
  | .mov bm a b => if bm then .movb a b else .movd a b
  | .cmp bm a b => if bm then .cmpb a b else .cmpd a b
  | .add bm a b => if required then .add bm a b else if bm then .addb a b else .addd a b
  | .sub bm a b => if required then .sub bm a b else if bm then .subb a b else .subd a b
  | .inc bm a => if required then .inc bm a else if bm then .incb a else .incd a
  | .dec bm a => if required then .dec bm a else if bm then .decb a else .decd a
  | .neg bm a => if required then .neg bm a else if bm then .negb a else .negd a
  | i => i

/-- The optimizer pass: each instruction is rewritten after a scan of the later, not yet rewritten ones
(30_encoding.md R145, R146). -/
def optimize : List Instr → List Instr
  | [] => []
  | i :: rest => specialise (flagsRequired rest) i :: optimize rest

/-! ## prepare (30_encoding.md R130) -/

/-- Why `prepare` refuses a bytecode (30_encoding.md R139). -/
inductive PrepareError where
  /-- the length is 0 or above MAX_CODE_SIZE -/
  | badLength
deriving DecidableEq, Repr

/-- What the decoder makes of a bytecode: instructions, static data and the reader it leaves. -/
structure Prepared where
  cmd : List Instr
  staticData : List Byte
  reader : BitReader
deriving DecidableEq, Repr

/-- `prepare` of a bytecode whose length is in bounds (30_encoding.md R130). -/
def prepareCode (cfg : Config) (code : List Byte) : Prepared :=
  let r : BitReader := (⟨code, 0⟩ : BitReader).advance 8
  if checksumOk code then
    match findSignature cfg code with
    | some e =>
      let (st, r1) := readStaticBlock code.length 0 r
      ⟨[.standard (.imm e.id), .ret], st, r1⟩
    | none =>
      let (st, r1) := readStaticBlock code.length code.length r
      let (is, r2) := decodeLoop cfg.byteImm (8 * code.length) code.length 0 r1
      ⟨optimize (is ++ [.ret]), st, r2⟩
  else ⟨optimize [.ret], [], r⟩

/-- `prepare(code)` (30_encoding.md R130), with the bounds of R139. -/
def prepare (cfg : Config) (code : List Byte) : Except PrepareError Prepared :=
  if 1 ≤ code.length ∧ code.length ≤ cfg.maxCodeSize then .ok (prepareCode cfg code) else .error .badLength

/-- The Program object of a decoded bytecode, before the host sets it up (10_state.md R42; log entry 22). -/
def Prepared.toProgram (p : Prepared) : Program := { Program.empty with cmd := p.cmd, staticData := p.staticData }

end Sys2Proof.Machine
end

