-- ==== Sys2Proof/Machine/Wrapper.lean ====
section
/-! DEFINITION. The execute wrapper: what it loads before the loop and what it reports after it
(70_reset_and_hazards.md R430 to R436). -/

namespace Sys2Proof.Machine

/-- R0 to R6 from InitR and R7 at MEMSIZE (70_reset_and_hazards.md R430 steps 1 and 4). -/
def initialRegs (i : InitRegs) : Regs :=
  { r0 := i.r0, r1 := i.r1, r2 := i.r2, r3 := i.r3, r4 := i.r4, r5 := i.r5, r6 := i.r6, r7 := memSizeWord }

/-- GlobalData at 0x3C000 and StaticData after it, GLOBALMEMSIZE bytes in all at most
(70_reset_and_hazards.md R430 steps 2 and 3, 20_memory.md R85). A GlobalData of 1 to 63 bytes, to which R85 gives no
meaning, is copied by the same steps (log entry 23). -/
def loadSegments (m : Memory) (p : Program) : Memory :=
  let g := p.globalData.take globalMemSize
  let st := p.staticData.take (globalMemSize - g.length)
  writeBytes (writeBytes m globalMemAddr g) (globalMemAddr + g.length) st

/-- The start of `execute(P)` for the Program at place `p` (70_reset_and_hazards.md R430). -/
def executeStart (s : State) (p : Nat) (prog : Program) : State :=
  { s with
    phase := .running
    regs := initialRegs prog.initR
    f := 0#32
    ip := 0
    budget := maxOps
    declined := false
    mem := loadSegments s.mem prog
    cur := p }

/-- Instruction 0 rewritten to RET when the poison parameter is on and the outcome is Exhausted
(70_reset_and_hazards.md R436; log entry 16). -/
def poisoned (cfg : Config) (o : ExecOutcome) (cmd : List Instr) : List Instr :=
  if cfg.poisonOnExhaust = true ∧ o = .exhausted then cmd.set 0 .ret else cmd

/-- The result window (offset, size) read from the control block (70_reset_and_hazards.md R433). -/
def readWindow (m : Memory) : Word × Word :=
  let off := memRead32 m resultOffsetAddr &&& memMask
  let size := memRead32 m resultSizeAddr &&& memMask
  if memSize ≤ off.toNat + size.toNat then (0#32, 0#32) else (off, size)

/-- The result window of an outcome (70_reset_and_hazards.md R433, R435). -/
def resultWindow (cfg : Config) (o : ExecOutcome) (m : Memory) : Word × Word :=
  if cfg.exhaustWindow = .empty ∧ o = .exhausted then (0#32, 0#32) else readWindow m

/-- The global-data write-back (70_reset_and_hazards.md R434). -/
def writeBack (m : Memory) : List Byte :=
  let n := min (memRead32 m newGlobalSizeAddr).toNat (globalMemSize - fixedGlobalSize)
  if n = 0 then [] else readBytes m globalMemAddr (n + fixedGlobalSize)

/-- The Program after an `execute` (70_reset_and_hazards.md R433, R434, R436). -/
def endProgram (cfg : Config) (o : ExecOutcome) (m : Memory) (p : Program) : Program :=
  { p with
    cmd := poisoned cfg o p.cmd
    filteredDataOffset := (resultWindow cfg o m).1
    filteredDataSize := (resultWindow cfg o m).2
    globalData := writeBack m }

/-- What the `execute` returns (70_reset_and_hazards.md R431). -/
def execResult (s : State) (o : ExecOutcome) : ExecResult :=
  { outcome := o
    declined := s.declined
    windowOffset := (resultWindow s.cfg o s.mem).1
    windowSize := (resultWindow s.cfg o s.mem).2
    globalData := writeBack s.mem }

/-- The end of `execute` (70_reset_and_hazards.md R431): poison, window, write-back, and the return to the host. -/
def executeEnd (s : State) (o : ExecOutcome) : State :=
  { s with
    phase := .idle
    programs := s.programs.modify s.cur (endProgram s.cfg o s.mem)
    reply := .executed (execResult s o) }

end Sys2Proof.Machine
end

