-- ==== Sys2Proof/Machine/HostPort.lean ====
section
/-! DEFINITION. The host's interactions while the instance is idle (70_reset_and_hazards.md R437). -/

namespace Sys2Proof.Machine

/-- `prepare(code)`: a new Program, or the refusal returned to the host (30_encoding.md R139; log entry 10). The
VM's registers, flags and memory are not touched (70_reset_and_hazards.md R432). -/
def hostPrepare (s : State) (code : List Byte) : State :=
  match prepare s.cfg code with
  | .ok p => { s with
      programs := s.programs ++ [p.toProgram]
      reader := p.reader
      reply := .prepared s.programs.length }
  | .error _ => s.setReply .prepareRefused

/-- A set-up of the Program at place `p`. -/
def hostSetProgram (s : State) (p : Nat) (change : Program → Program) : StepResult :=
  if p < s.programs.length then .next ((s.setPrograms (s.programs.modify p change)).setReply .done)
  else .refused (.noSuchProgram p)

/-- A set-up of bytes of Mem, anywhere in its 0x40004 bytes (70_reset_and_hazards.md R437, 20_memory.md R70). -/
def hostWriteMem (s : State) (addr : Nat) (data : List Byte) : StepResult :=
  if addr + data.length ≤ memBytes then .next ((s.setMem (writeBytes s.mem addr data)).setReply .done)
  else .refused (.writeOutsideMemory addr)

/-- `execute(P)`: the wrapper's start (70_reset_and_hazards.md R430). -/
def hostExecute (s : State) (p : Nat) : StepResult :=
  match s.programs[p]? with
  | some prog => .next (executeStart s p prog)
  | none => .refused (.noSuchProgram p)

/-- One host request served (70_reset_and_hazards.md R437). GlobalData is set to the list given, of any length; that
one of 1 to 63 bytes, shorter than the control block it should cover (20_memory.md R85), is accepted is the model's
choice (DESIGN CHOICE, log entry 23). -/
def serve (s : State) : HostRequest → StepResult
  | .prepare code => .next (hostPrepare s code)
  | .setInitR p r => hostSetProgram s p fun g => { g with initR := r }
  | .setGlobalData p d => hostSetProgram s p fun g => { g with globalData := d }
  | .writeMem a d => hostWriteMem s a d
  | .execute p => hostExecute s p

/-- An idle instance serves the host's next request; with none it stays as it is (60_exceptions.md R411; log
entries 7 and 9). -/
def hostStep (s : State) : StepResult :=
  match s.host with
  | [] => .next s
  | q :: qs => serve (s.setHost qs) q

/-- The state with a one-instruction Program and its terminal RET added as the Program being executed, at its
first instruction, unoptimised (log entries 7 and 13). -/
def placeInstr (s : State) (i : Instr) : State :=
  { s with
    phase := .running
    ip := 0
    programs := s.programs ++ [{ Program.empty with cmd := [i, .ret] }]
    cur := s.programs.length }

end Sys2Proof.Machine
end

