-- ==== Sys2Proof/Machine/Step.lean ====
section
/-! DEFINITION. One step of the machine. -/

namespace Sys2Proof.Machine

/-- One step: an idle instance serves the host; a running one fetches and executes one instruction
(43_control.md R301); one that met `finish` runs the wrapper's end (70_reset_and_hazards.md R431). -/
def step (s : State) : Host.Outcome State Fault Refusal :=
  match s.phase with
  | .idle => hostStep s
  | .running => match fetch s with
    | some i => exec i s
    | none => .fault .ipBeyondProgram
  | .ended o => .next (executeEnd s o)

/-- The state whose next step fetches and runs the instruction of an opcode-table word: the selected Program is that
instruction and a terminal RET, the instance runs, IP is 0 (log entries 7 and 19). -/
def State.withFetchWord (s : State) (nbits w : Nat) : State :=
  match decodeTableWord nbits w with
  | some i => placeInstr s i
  | none => s

end Sys2Proof.Machine
end

