-- ==== Sys2Proof/Safety.lean ====
section
/-! DEFINITION. What counts as a safe run, the invariant of the machine, and the words the statements are written in:
what a write, a transfer or an instruction leaves, said through the bytes and registers that can be read. -/

namespace Sys2Proof.Machine

/-! ## Safe runs and the invariant -/

/-- The step completes: neither a fault nor a refusal (60_exceptions.md R400). -/
def Completes (s : State) : Prop := ∃ t, step s = .next t

/-- `n` steps of the machine. -/
def steps (n : Nat) (s : State) : StepResult := Sys2Proof.core.run n s

/-- The invariant of the machine: memory in canonical form, parameters the spec admits, Programs with their terminal
RET (30_encoding.md R140), a running IP inside its Program (10_state.md R36), a bit-reader buffer within its capacity
(30_encoding.md R100), a budget no execute starts above (10_state.md R40). -/
structure Invariant (s : State) : Prop where
  memory : Memory.wf s.mem = true
  config : s.cfg.wellFormed = true
  programs : ∀ p ∈ s.programs, programWellFormed p.cmd = true
  windows : ∀ p ∈ s.programs, p.filteredDataOffset.toNat + p.filteredDataSize.toNat < memSize
  fetch : s.phase = .running → s.ip < s.cmdCount
  reader : s.reader.buf.length ≤ s.cfg.bitbufSize
  budget : s.budget ≤ maxOps

/-! ## What a state keeps -/

/-- Everything that no instruction but STANDARD and a finishing transfer touches is as it was. -/
structure SameRest (s t : State) : Prop where
  cfg : t.cfg = s.cfg
  phase : t.phase = s.phase
  declined : t.declined = s.declined
  programs : t.programs = s.programs
  cur : t.cur = s.cur
  reader : t.reader = s.reader
  host : t.host = s.host
  reply : t.reply = s.reply

/-- Control went on to IP + 1 with one budget decrement, and the rest is as it was (43_control.md R301). -/
structure Advanced (s t : State) : Prop where
  ip : t.ip = s.ip + 1
  budget : t.budget = s.budget - 1
  rest : SameRest s t

/-- Every register reads as before. -/
def SameRegs (s t : State) : Prop := ∀ q, t.reg q = s.reg q

/-- Every byte of memory reads as before. -/
def SameBytes (s t : State) : Prop := ∀ a, readByte t.mem a = readByte s.mem a

/-! ## What a write leaves -/

/-- The number of bytes of an access (20_memory.md R78). -/
abbrev Width.bytes : Width → Nat
  | .byte => 1
  | .dword => 4

/-- The number of bits of an access. -/
abbrev Width.bits : Width → Nat
  | .byte => 8
  | .dword => 32

/-- What a register that held `old` holds after `v` is written to it (20_memory.md R81): all of `v`, or its bits 7:0
below the kept (merge) or cleared (zext) bits 31:8. -/
def writtenReg (brw : ByteRegWrite) (w : Width) (old v : Word) : Word :=
  match w, brw with
  | .dword, _ => v
  | .byte, .merge => old.extractLsb' 8 24 ++ v.extractLsb' 0 8
  | .byte, .zext => (v.extractLsb' 0 8).setWidth 32

/-- Memory after the bytes of `v` are stored, the lowest first, at `a`: those bytes and no other change. -/
def StoredAt (m m' : Memory) (a : Nat) (w : Width) (v : Word) : Prop :=
  ∀ b, readByte m' b = if a ≤ b ∧ b < a + w.bytes then v.extractLsb' (8 * (b - a)) 8 else readByte m b

/-- Registers and bytes after `WriteOp(loc, w, v)` (20_memory.md R81, R74, R75): the destination and nothing else;
nothing at all for an immediate. -/
def WrittenAt (s t : State) (loc : Loc) (w : Width) (v : Word) : Prop :=
  match loc with
  | .reg r => (∀ q, t.reg q = if q = r then writtenReg s.cfg.byteRegWrite w (s.reg r) v else s.reg q) ∧ SameBytes s t
  | .imm _ => SameRegs s t ∧ SameBytes s t
  | .addr a => SameRegs s t ∧ StoredAt s.mem t.mem a w v

/-- The value of an operand at a width, read in a state (20_memory.md R79, R80). -/
def operandValue (s : State) (op : Operand) (w : Width) : Word := readOp s (resolve s.regs op) w

/-! ## Flags -/

/-- F from a carry, a zero and a sign under a flag formula (41_arithmetic.md R220, 00_scope.md R24). -/
def flagWord (ff : FlagFormula) (carry zero sign : Bool) : Word :=
  let z : Word := if zero then 2#32 else if sign then 0x80000000#32 else 0#32
  match ff with
  | .literal => if carry then 1#32 else z
  | .idiomatic => (if carry then 1#32 else 0#32) + z

/-! ## Decoding in order (30_encoding.md R130, R135) -/

/-- The reader at which instruction `k` is decoded when instruction 0 is decoded at `r`: each instruction is decoded at
the reader its predecessor left, with its own index. -/
def readerAt (bi : ByteImm) (r : BitReader) : Nat → BitReader
  | 0 => r
  | k + 1 => (decodeInstr bi k (readerAt bi r k)).2

/-- The first `n` instructions decoded in order from `r`. -/
def decodedFrom (bi : ByteImm) (r : BitReader) (n : Nat) : List Instr :=
  (List.range n).map fun k => (decodeInstr bi k (readerAt bi r k)).1

/-! ## Shapes of results -/

/-- The instruction completes: op1 becomes `r` at width `w`, F becomes `f`, control advances, nothing else changes. -/
def Computes (i : Instr) (s : State) (op1 : Operand) (w : Width) (r f : Word) : Prop :=
  ∃ t, exec i s = .next t ∧ Advanced s t ∧ WrittenAt s t (resolve s.regs op1) w r ∧ t.f = f

/-- The instruction completes: only F is written, with `f`, and control advances. -/
def SetsFlags (i : Instr) (s : State) (f : Word) : Prop :=
  ∃ t, exec i s = .next t ∧ Advanced s t ∧ SameRegs s t ∧ SameBytes s t ∧ t.f = f

/-- The instruction completes and does nothing but advance control. -/
def OnlyAdvances (i : Instr) (s : State) : Prop := SetsFlags i s s.f

/-! ## What a transfer leaves -/

/-- `t` is what `setIP(target)` makes of `s` (43_control.md R300): Finished beyond the Program, Exhausted with the
budget used up, else IP at the target; one budget decrement unless it finished. -/
def Transferred (s t : State) (target : Word) : Prop :=
  if s.cmdCount ≤ target.toNat then t = { s with phase := .ended .finished }
  else if s.budget - 1 ≤ 0 then t = { s with budget := s.budget - 1, phase := .ended .exhausted }
  else t = { s with budget := s.budget - 1, ip := target.toNat }

/-- The instruction completes with a transfer to the value of its operand, read at 32 bits (43_control.md R302). -/
def JumpsTo (i : Instr) (s : State) (target : Word) : Prop := ∃ t, exec i s = .next t ∧ Transferred s t target

/-- The conditional jump is taken to its operand's value if the condition holds, and only advances otherwise. -/
def JumpsWhen (cond : Bool) (i : Instr) (op1 : Operand) (s : State) : Prop :=
  if cond then JumpsTo i s (operandValue s op1 .dword) else OnlyAdvances i s

/-! ## The optimizer's equivalence (30_encoding.md R150) -/

/-- The states agree in everything but F and the Programs. -/
def SameButFlags (s t : State) : Prop := { t with f := s.f, programs := s.programs } = s

/-- `t` runs the optimized Program where `s` runs the unoptimised one; they agree but for an F that is dead at IP. -/
structure OptRelated (s t : State) : Prop where
  same : SameButFlags s t
  program : t.programs = s.programs.modify s.cur fun p => { p with cmd := optimize p.cmd }
  flags : t.f = s.f ∨ flagsRequired (s.program.cmd.drop s.ip) = false

end Sys2Proof.Machine
end

