-- ==== Sys2Proof/Certificates/Slice0/Obligations.lean ====
section
/-! DEFINITION. The statements for the provers. Each docstring names the rules of spec/ it formalises. -/

open Sys2Proof Sys2Proof.Machine

/-! ## Encoding, bit reader and decoder -/

/-- 30_encoding.md R101: `peek16()` returns the 16 stream bits at positions pos to pos+15, the bit at pos as bit 15,
and does nothing else. -/
def Obligations.PeekReturnsSixteenStreamBits : Prop :=
  ∀ r : BitReader, (∀ j, j < 16 → r.peek16.getLsbD (15 - j) = r.bitAt (r.pos + j)) ∧ r.peek16.toNat < 65536

/-- 30_encoding.md R105: the five VLQ forms, each with its first bits, its value and its length. -/
def Obligations.VlqFormsReadTheirValue : Prop :=
  ∀ (r : BitReader) (v : Word),
    (v.toNat < 16 → r.startsWith ([false, false] ++ bitsMSB 4 v) → readVLQ r = (v, r.advance 6)) ∧
    (16 ≤ v.toNat → v.toNat < 256 → r.startsWith ([false, true] ++ bitsMSB 8 v) → readVLQ r = (v, r.advance 10)) ∧
    (0xFFFFFF00 ≤ v.toNat → r.startsWith ([false, true, false, false, false, false] ++ bitsMSB 8 v) →
      readVLQ r = (v, r.advance 14)) ∧
    (v.toNat < 65536 → r.startsWith ([true, false] ++ bitsMSB 16 v) → readVLQ r = (v, r.advance 18)) ∧
    (r.startsWith ([true, true] ++ bitsMSB 32 v) → readVLQ r = (v, r.advance 34))

/-- 30_encoding.md R110, R111, R112, R113: the register operand, the three memory forms, and the immediate: `00` and a
VLQ, but `00` and eight raw bits in byte mode under BYTE_IMM = raw8. -/
def Obligations.OperandFormsDecode : Prop :=
  ∀ (bi : ByteImm) (bm : Bool) (r : BitReader) (q : Reg) (v : Word),
    (r.startsWith (true :: encodeReg q) → decodeOperand bi bm r = (.reg q, r.advance 4)) ∧
    (r.startsWith ([false, true, false] ++ encodeReg q) → decodeOperand bi bm r = (.mem q 0#32, r.advance 6)) ∧
    (r.startsWith ([false, true, true, false] ++ encodeReg q) →
      decodeOperand bi bm r = (.mem q (readVLQ (r.advance 7)).1, (readVLQ (r.advance 7)).2)) ∧
    (r.startsWith [false, true, true, true] →
      decodeOperand bi bm r = (.memAbs (readVLQ (r.advance 4)).1, (readVLQ (r.advance 4)).2)) ∧
    (bm = true ∧ bi = .raw8 → v.toNat < 256 → r.startsWith ([false, false] ++ bitsMSB 8 v) →
      decodeOperand bi bm r = (.imm v, r.advance 10)) ∧
    (bm = false ∨ bi = .vlq → r.startsWith [false, false] →
      decodeOperand bi bm r = (.imm (readVLQ (r.advance 2)).1, (readVLQ (r.advance 2)).2))

/-- 30_encoding.md R120: a first bit 0 gives the 4-bit code 0 to 7, a first bit 1 the 6-bit value less 24, 8 to 39. -/
def Obligations.OpcodeFieldDecodes : Prop :=
  ∀ r : BitReader,
    (∀ op, op < 8 → r.startsWith (bitsMSB 4 (BitVec.ofNat 32 op)) → decodeOpcode r = (op, r.advance 4)) ∧
    (∀ op, 8 ≤ op → op < 40 → r.startsWith (bitsMSB 6 (BitVec.ofNat 32 (op + 24))) →
      decodeOpcode r = (op, r.advance 6))

/-- 30_encoding.md R126: the raw values of the relative displacements and of an absolute target. -/
def Obligations.JumpCorrectionInvertsTheDisplacementCode : Prop :=
  ∀ (k : Nat) (d : Int) (t : Word),
    (0 ≤ d → d ≤ 7 → correctTarget k (BitVec.ofInt 32 d) = BitVec.ofInt 32 (k + d)) ∧
    (-8 ≤ d → d ≤ -1 → correctTarget k (BitVec.ofInt 32 (d + 16)) = BitVec.ofInt 32 (k + d)) ∧
    (8 ≤ d → d ≤ 127 → correctTarget k (BitVec.ofInt 32 (d + 8)) = BitVec.ofInt 32 (k + d)) ∧
    (-128 ≤ d → d ≤ -9 → correctTarget k (BitVec.ofInt 32 (d + 264)) = BitVec.ofInt 32 (k + d)) ∧
    (-256 ≤ d → d ≤ -1 → correctTarget k (BitVec.ofInt 32 d) = BitVec.ofInt 32 (k + d)) ∧
    (t.toNat + 256 < 2 ^ 31 → correctTarget k (t + 256#32) = t)

/-- Decode and encode agree (30_encoding.md sections 2 to 4): from any reader whose stream begins with the encoding of
a well-formed encodable instruction at its index, the decoder reads that instruction and moves past its bits. -/
def Obligations.DecodeOfEncodeIsIdentity : Prop :=
  ∀ (bi : ByteImm) (k : Nat) (i : Instr) (bs : List Bool) (r : BitReader),
    i.wellFormed bi k = true → encode bi k i = some bs → r.startsWith bs →
      decodeInstr bi k r = (i, r.advance bs.length)

/-- 30_encoding.md section 4: whatever the stream holds, the decoder reads an encodable instruction that is well
formed at its index, and 6 to 89 bits of the stream. -/
def Obligations.EveryStreamDecodesToAWellFormedInstruction : Prop :=
  ∀ (bi : ByteImm) (k : Nat) (r : BitReader),
    (decodeInstr bi k r).1.wellFormed bi k = true ∧ (decodeInstr bi k r).1.encodable = true ∧
    r.pos + 6 ≤ (decodeInstr bi k r).2.pos ∧ (decodeInstr bi k r).2.pos ≤ r.pos + 89 ∧
    (decodeInstr bi k r).2.buf = r.buf

/-- The instruction bit strings of 30_encoding.md's own table (R110 to R123) decode to their instructions. -/
def Obligations.ExampleBitStringsDecode : Prop :=
  (decodeInstr .raw8 0 ⟨[0x04#8, 0x02#8, 0x80#8], 0⟩).1 = .mov false (.reg .r0) (.imm 5#32) ∧
  (decodeInstr .raw8 0 ⟨[0x0A#8, 0x25#8, 0x58#8], 0⟩).1 = .mov true (.mem .r1 0#32) (.imm 0xAB#32) ∧
  (decodeInstr .raw8 0 ⟨[0x25#8, 0xB2#8, 0x44#8, 0x00#8], 0⟩).1 = .add false (.reg .r3) (.mem .r2 0x10#32) ∧
  (decodeInstr .raw8 0 ⟨[0x67#8, 0x00#8], 0⟩).1 = .inc false (.reg .r6) ∧
  (decodeInstr .raw8 0 ⟨[0x87#8, 0x54#8], 0⟩).1 = .xor true (.reg .r2) (.reg .r2) ∧
  (decodeInstr .raw8 0 ⟨[0xB7#8, 0x40#8], 0⟩).1 = .call (.reg .r5) ∧
  (decodeInstr .raw8 0 ⟨[0xE2#8, 0x50#8], 0⟩).1 = .movzx (.reg .r1) (.mem .r0 0#32) ∧
  (decodeInstr .raw8 0 ⟨[0xB8#8], 0⟩).1 = .ret ∧
  (decodeInstr .raw8 0 ⟨[0x04#8, 0x08#8, 0x40#8, 0x00#8], 0⟩).1 = .mov false (.reg .r0) (.imm 0xFFFFFF80#32)

/-! ## prepare and the optimizer -/

/-- 30_encoding.md R139: `prepare` refuses a bytecode exactly when its length is 0 or above MAX_CODE_SIZE. -/
def Obligations.PrepareRefusesExactlyBadLengths : Prop :=
  ∀ (cfg : Config) (code : List Byte),
    (1 ≤ code.length → code.length ≤ cfg.maxCodeSize → ∃ p, prepare cfg code = .ok p) ∧
    (code.length = 0 ∨ cfg.maxCodeSize < code.length → prepare cfg code = .error .badLength)

/-- 30_encoding.md R132: if the XOR of bytes 1 to L-1 is not byte 0, the Program is `[RET]`, with no static data. -/
def Obligations.BadChecksumGivesOnlyRet : Prop :=
  ∀ (cfg : Config) (b : Byte) (bs : List Byte), bs.foldl (fun x y => x ^^^ y) 0#8 ≠ b →
    (prepareCode cfg (b :: bs)).cmd = [.ret] ∧ (prepareCode cfg (b :: bs)).staticData = []

/-- 30_encoding.md R133: with a matching checksum, the first signature entry whose length and CRC32 match gives the
Program `[STANDARD(id), RET]`, and no static data is read. -/
def Obligations.SignatureHitGivesStandardThenRet : Prop :=
  ∀ (cfg : Config) (b : Byte) (bs : List Byte) (pre post : List Signature) (e : Signature),
    bs.foldl (fun x y => x ^^^ y) 0#8 = b → cfg.stdSignatures = pre ++ e :: post →
    (∀ x ∈ pre, ¬ (x.len = (b :: bs).length ∧ x.crc = crcOf cfg.crc (b :: bs))) →
    e.len = (b :: bs).length → e.crc = crcOf cfg.crc (b :: bs) →
      (prepareCode cfg (b :: bs)).cmd = [.standard (.imm e.id), .ret] ∧ (prepareCode cfg (b :: bs)).staticData = []

/-- 30_encoding.md section 5 (R130, R134, R135, R136), the ordinary path of `prepare`: a matching checksum and no
signature. The flag bit is stream bit 8. If it is 1, StaticData is the next n = VLQ + 1 (mod 2^32) stream bytes, cut
where the cursor's byte address reaches the length of the bytecode; if not, it is empty. From the cursor that leaves,
instructions are decoded in order, each at its own index and at the reader its predecessor left, until the cursor's
byte address reaches the length: no earlier (the fuel of log entry 26 is no limit) and no later. Cmd is these
instructions and a RET, optimized; the reader is kept as the last of them left it (log entry 15). -/
def Obligations.OrdinaryPrepareReadsStaticDataThenDecodesToTheEnd : Prop :=
  ∀ (cfg : Config) (b : Byte) (bs : List Byte),
    let code := b :: bs
    let p := prepareCode cfg code
    bs.foldl (fun x y => x ^^^ y) 0#8 = b →
    (∀ e ∈ cfg.stdSignatures, ¬ (e.len = code.length ∧ e.crc = crcOf cfg.crc code)) →
      let stream : BitReader := ⟨code, 0⟩
      let v := readVLQ (stream.advance 9)
      let count := min (v.1 + 1#32).toNat (code.length - v.2.pos / 8)
      let start : BitReader := if stream.bitAt 8 then ⟨code, v.2.pos + 8 * count⟩ else ⟨code, 9⟩
      (stream.bitAt 8 = false → p.staticData = []) ∧
      (stream.bitAt 8 = true → p.staticData.length = count ∧
        ∀ i x, p.staticData[i]? = some x →
          ∀ j, j < 8 → x.getLsbD (7 - j) = stream.bitAt (v.2.pos + 8 * i + j)) ∧
      ∃ n, (∀ k, k < n → (readerAt cfg.byteImm start k).pos / 8 < code.length) ∧
        code.length ≤ (readerAt cfg.byteImm start n).pos / 8 ∧
        p.reader = readerAt cfg.byteImm start n ∧
        p.cmd = optimize (decodedFrom cfg.byteImm start n ++ [.ret])

/-- 30_encoding.md section 5: every prepared Program has its invariants: it is not empty, its last instruction is
RET, STANDARD occurs only as instruction 0 of a two-instruction Program; and it holds no generic MOV or CMP
(section 6). -/
def Obligations.PreparedProgramsAreWellFormed : Prop :=
  ∀ (cfg : Config) (code : List Byte),
    programWellFormed (prepareCode cfg code).cmd = true ∧
    ∀ i ∈ (prepareCode cfg code).cmd, i.opcode ≠ 0 ∧ i.opcode ≠ 1

/-- 30_encoding.md R145: the optimizer changes only opcodes, never operands or order; every MOV becomes MOVB or MOVD
and every CMP becomes CMPB or CMPD, by the byte mode. -/
def Obligations.OptimizerChangesOnlyOpcodes : Prop :=
  ∀ (cmd : List Instr),
    (optimize cmd).map (fun i => (i.operands, i.byteMode)) = cmd.map (fun i => (i.operands, i.byteMode)) ∧
    ∀ (n : Nat) (bm : Bool) (a b : Operand),
      (cmd[n]? = some (.mov bm a b) → (optimize cmd)[n]? = some (if bm then .movb a b else .movd a b)) ∧
      (cmd[n]? = some (.cmp bm a b) → (optimize cmd)[n]? = some (if bm then .cmpb a b else .cmpd a b))

/-- 30_encoding.md R146: ADD, SUB, INC, DEC and NEG stay generic exactly when a later instruction that is a jump, a
procedure instruction or a flag user comes before every later instruction that changes flags; any other opcode but
MOV and CMP is left unchanged. -/
def Obligations.DeadFlagSpecialisationRule : Prop :=
  ∀ (cmd : List Instr) (n : Nat) (i : Instr), cmd[n]? = some i →
    let required := ∃ (m : Nat) (j : Instr), n < m ∧ cmd[m]? = some j ∧
      ((opInfo j.opcode).j = true ∨ (opInfo j.opcode).p = true ∨ (opInfo j.opcode).u = true) ∧
      ∀ (l : Nat) (x : Instr), n < l → l < m → cmd[l]? = some x → (opInfo x.opcode).c = false
    (required → i.opcode ≠ 0 → i.opcode ≠ 1 → (optimize cmd)[n]? = some i) ∧
    (¬ required → ∀ (bm : Bool) (a b : Operand),
      (i = .add bm a b → (optimize cmd)[n]? = some (if bm then .addb a b else .addd a b)) ∧
      (i = .sub bm a b → (optimize cmd)[n]? = some (if bm then .subb a b else .subd a b)) ∧
      (i = .inc bm a → (optimize cmd)[n]? = some (if bm then .incb a else .incd a)) ∧
      (i = .dec bm a → (optimize cmd)[n]? = some (if bm then .decb a else .decd a)) ∧
      (i = .neg bm a → (optimize cmd)[n]? = some (if bm then .negb a else .negd a)) ∧
      (i.opcode ∉ [0, 1, 2, 3, 6, 7, 27] → (optimize cmd)[n]? = some i))

/-- 30_encoding.md section 6, the observational equivalence: where one state runs a Program and another the same
Program optimized, and they agree but for an F that no instruction reads before it is rewritten, a step of the first
is answered by a step of the second that agrees again in everything but F and the Programs, and again as before while
the execute goes on. -/
def Obligations.OptimizedProgramSimulatesTheUnoptimizedOne : Prop :=
  ∀ s t s' : State, s.phase = .running → OptRelated s t → step s = .next s' →
    ∃ t', step t = .next t' ∧ SameButFlags s' t' ∧ (s'.phase = .running → OptRelated s' t')

/-! ## Memory and operands -/

/-- 20_memory.md R74: a byte write changes its byte, a dword write its four bytes with bits 7:0 first, at any address;
no other byte changes. -/
def Obligations.WritesChangeOnlyTheirBytes : Prop :=
  ∀ (m : Memory) (a b : Nat) (v : Word),
    readByte (memWrite8 m a v) b = (if b = a then v.extractLsb' 0 8 else readByte m b) ∧
    readByte (memWrite32 m a v) b =
      (if b = a then v.extractLsb' 0 8 else if b = a + 1 then v.extractLsb' 8 8
       else if b = a + 2 then v.extractLsb' 16 8 else if b = a + 3 then v.extractLsb' 24 8 else readByte m b)

/-- 20_memory.md R72: a byte read is zero-extended, a dword read is little-endian, over unmasked tail addresses. -/
def Obligations.ReadsAreLittleEndian : Prop :=
  ∀ (m : Memory) (a : Nat),
    (memRead8 m a).toNat = (readByte m a).toNat ∧
    (memRead32 m a).toNat = (readByte m a).toNat + 2 ^ 8 * (readByte m (a + 1)).toNat +
      2 ^ 16 * (readByte m (a + 2)).toNat + 2 ^ 24 * (readByte m (a + 3)).toNat

/-- The canonical form is canonical (the model's own form of memory, log entry 2): two memories in it that read alike
at every address are the same list. -/
def Obligations.CanonicalMemoriesThatReadAlikeAreEqual : Prop :=
  ∀ m m' : Memory, Memory.wf m = true → Memory.wf m' = true → (∀ a, readByte m a = readByte m' a) → m = m'

/-- 20_memory.md R79, R71: an operand is resolved to a register, an immediate, or an address formed mod 2^32 and then
masked to 18 bits. -/
def Obligations.OperandsResolveToMaskedAddresses : Prop :=
  ∀ (rs : Regs) (r : Reg) (v d : Word),
    resolve rs (.reg r) = .reg r ∧ resolve rs (.imm v) = .imm v ∧
    resolve rs (.mem r d) = .addr (((rs.get r).toNat + d.toNat) % 2 ^ 32 % 2 ^ 18) ∧
    resolve rs (.memAbs d) = .addr (d.toNat % 2 ^ 18)

/-- 20_memory.md R80: a 32-bit read gives the whole register, immediate or dword; an 8-bit read gives bits 7:0 of a
register or immediate, or one byte, zero-extended. -/
def Obligations.OperandReadsTakeTheirWidth : Prop :=
  ∀ (s : State) (r : Reg) (v : Word) (a : Nat),
    readOp s (.reg r) .dword = s.reg r ∧ (readOp s (.reg r) .byte).toNat = (s.reg r).toNat % 256 ∧
    readOp s (.imm v) .dword = v ∧ (readOp s (.imm v) .byte).toNat = v.toNat % 256 ∧
    readOp s (.addr a) .dword = memRead32 s.mem a ∧ (readOp s (.addr a) .byte).toNat = (readByte s.mem a).toNat

/-- 20_memory.md section 1 (R73): no instruction but STANDARD reaches the last guard byte 0x40003. None writes it, or
any byte past it; and none reads it: from two states that differ in that byte only, each completes with next states
that differ in that byte at most. -/
def Obligations.OnlyStandardReachesTheLastGuardByte : Prop :=
  ∀ (i : Instr) (s : State) (m : Memory), i.isStandard = false →
    (∀ a, a ≠ 0x40003 → readByte m a = readByte s.mem a) →
    ∃ t t', exec i s = .next t ∧ exec i { s with mem := m } = .next t' ∧
      (∀ a, 0x40003 ≤ a → readByte t.mem a = readByte s.mem a) ∧
      t' = { t with mem := t'.mem } ∧ ∀ a, a ≠ 0x40003 → readByte t'.mem a = readByte t.mem a

/-! ## Data movement -/

/-- 40_move.md R200, R201, R202: MOVB and MOVD write operand 2's value to operand 1 at their width, F unchanged; MOV,
if executed, behaves as MOVB or MOVD by its byte mode. -/
def Obligations.MovesCopyTheirSource : Prop :=
  ∀ (s : State) (a b : Operand),
    (∀ bm, Computes (.mov bm a b) s a (widthOf bm) (operandValue s b (widthOf bm)) s.f) ∧
    Computes (.movb a b) s a .byte (operandValue s b .byte) s.f ∧
    Computes (.movd a b) s a .dword (operandValue s b .dword) s.f

/-- 40_move.md R203, R204: MOVZX and MOVSX read a byte and write its zero or sign extension as 32 bits, F unchanged. -/
def Obligations.ExtendingMovesExtendAByte : Prop :=
  ∀ (s : State) (a b : Operand),
    Computes (.movzx a b) s a .dword (operandValue s b .byte) s.f ∧
    Computes (.movsx a b) s a .dword
      (if (operandValue s b .byte).toNat < 128 then operandValue s b .byte else operandValue s b .byte + 0xFFFFFF00#32)
      s.f

/-- 40_move.md R205: XCHG reads both operands, then writes operand 1 with operand 2's value, then operand 2 with
operand 1's; F unchanged. -/
def Obligations.XchgExchangesThroughTwoOrderedWrites : Prop :=
  ∀ (s : State) (bm : Bool) (a b : Operand), ∃ u t, exec (.xchg bm a b) s = .next t ∧ Advanced s t ∧ t.f = s.f ∧
    u.cfg = s.cfg ∧ WrittenAt s u (resolve s.regs a) (widthOf bm) (operandValue s b (widthOf bm)) ∧
    WrittenAt u t (resolve s.regs b) (widthOf bm) (operandValue s a (widthOf bm))

/-! ## Arithmetic and compare -/

/-- 41_arithmetic.md R222: ADD's sum at its width, and its flags: carry out of the width, zero, and the sum's top bit
at the width. -/
def Obligations.AddResultAndFlags : Prop :=
  ∀ (s : State) (bm : Bool) (a b : Operand),
    let w := widthOf bm
    let n := (operandValue s a w).toNat + (operandValue s b w).toNat
    Computes (.add bm a b) s a w (BitVec.ofNat 32 (n % 2 ^ w.bits))
      (flagWord s.cfg.flagFormula (decide (2 ^ w.bits ≤ n)) (decide (n % 2 ^ w.bits = 0))
        (n.testBit (w.bits - 1)))

/-- 41_arithmetic.md R224: SUB's difference, and its flags from the 32-bit difference: borrow, zero, bit 31. -/
def Obligations.SubResultAndFlags : Prop :=
  ∀ (s : State) (bm : Bool) (a b : Operand),
    let w := widthOf bm
    let v1 := operandValue s a w
    let v2 := operandValue s b w
    Computes (.sub bm a b) s a w (v1 - v2)
      (flagWord s.cfg.flagFormula (decide (v1.toNat < v2.toNat)) (decide (v1 = v2)) (v1 - v2).msb)

/-- 41_arithmetic.md R238, R239, R240: CMPB and CMPD write only F: borrow, zero, bit 31 of the 32-bit difference; CMP,
if executed, behaves as CMPB or CMPD by its byte mode. -/
def Obligations.CompareFlags : Prop :=
  ∀ (s : State) (a b : Operand),
    let flags := fun w => flagWord s.cfg.flagFormula
      (decide ((operandValue s a w).toNat < (operandValue s b w).toNat))
      (decide (operandValue s a w = operandValue s b w)) (operandValue s a w - operandValue s b w).msb
    (∀ bm, SetsFlags (.cmp bm a b) s (flags (widthOf bm))) ∧
    SetsFlags (.cmpb a b) s (flags .byte) ∧ SetsFlags (.cmpd a b) s (flags .dword)

/-- 41_arithmetic.md R226: ADC's sum with the carry flag at its width, and its flags: carry out of the width, zero,
bit 31 of the result. -/
def Obligations.AdcResultAndFlags : Prop :=
  ∀ (s : State) (bm : Bool) (a b : Operand),
    let w := widthOf bm
    let n := (operandValue s a w).toNat + (operandValue s b w).toNat + (s.f.getLsbD 0).toNat
    Computes (.adc bm a b) s a w (BitVec.ofNat 32 (n % 2 ^ w.bits))
      (flagWord s.cfg.flagFormula (decide (2 ^ w.bits ≤ n)) (decide (n % 2 ^ w.bits = 0))
        ((n % 2 ^ w.bits).testBit 31))

/-- 41_arithmetic.md R227: SBB's difference less the carry flag at its width, and its flags: borrow out of the width,
zero, bit 31 of the result. -/
def Obligations.SbbResultAndFlags : Prop :=
  ∀ (s : State) (bm : Bool) (a b : Operand),
    let w := widthOf bm
    let v1 := (operandValue s a w).toNat
    let v2 := (operandValue s b w).toNat + (s.f.getLsbD 0).toNat
    let r := (v1 + 2 ^ w.bits - v2) % 2 ^ w.bits
    Computes (.sbb bm a b) s a w (BitVec.ofNat 32 r)
      (flagWord s.cfg.flagFormula (decide (v1 < v2)) (decide (r = 0)) (r.testBit 31))

/-- 41_arithmetic.md R228, R230, R232: INC, DEC and NEG with their flags; INC masks its result to its width before
the flags, DEC and NEG do not. -/
def Obligations.IncDecNegResultsAndFlags : Prop :=
  ∀ (s : State) (bm : Bool) (a : Operand),
    let w := widthOf bm
    let v := operandValue s a w
    let n := (v.toNat + 1) % 2 ^ w.bits
    Computes (.inc bm a) s a w (BitVec.ofNat 32 n)
      (flagWord .idiomatic false (decide (n = 0)) (n.testBit 31)) ∧
    Computes (.dec bm a) s a w (v - 1#32) (flagWord .idiomatic false (decide (v = 1#32)) (v - 1#32).msb) ∧
    Computes (.neg bm a) s a w (0#32 - v) (flagWord .idiomatic (decide (v ≠ 0#32)) (decide (v = 0#32)) (0#32 - v).msb)

/-- 41_arithmetic.md R234, R235: MUL's low half and DIV's unsigned quotient; DIV by zero changes nothing; F is
unchanged. -/
def Obligations.MulAndDivResults : Prop :=
  ∀ (s : State) (bm : Bool) (a b : Operand),
    let w := widthOf bm
    let v1 := (operandValue s a w).toNat
    let v2 := (operandValue s b w).toNat
    Computes (.mul bm a b) s a w (BitVec.ofNat 32 (v1 * v2 % 2 ^ 32)) s.f ∧
    (v2 ≠ 0 → Computes (.div bm a b) s a w (BitVec.ofNat 32 (v1 / v2)) s.f) ∧
    (v2 = 0 → OnlyAdvances (.div bm a b) s)

/-- 41_arithmetic.md R241 to R250: the typed opcodes write the stored value of their generic form and leave F. -/
def Obligations.TypedOpcodesLeaveFlags : Prop :=
  ∀ (s : State) (a b : Operand),
    let x := fun w => (operandValue s a w).toNat
    let y := fun w => (operandValue s b w).toNat
    Computes (.addb a b) s a .byte (BitVec.ofNat 32 (x .byte + y .byte)) s.f ∧
    Computes (.addd a b) s a .dword (BitVec.ofNat 32 (x .dword + y .dword)) s.f ∧
    Computes (.subb a b) s a .byte (BitVec.ofNat 32 (x .byte + (256 - y .byte))) s.f ∧
    Computes (.subd a b) s a .dword (BitVec.ofNat 32 (x .dword + (2 ^ 32 - y .dword))) s.f ∧
    Computes (.incb a) s a .byte (BitVec.ofNat 32 (x .byte + 1)) s.f ∧
    Computes (.incd a) s a .dword (BitVec.ofNat 32 (x .dword + 1)) s.f ∧
    Computes (.decb a) s a .byte (BitVec.ofNat 32 (x .byte + 255)) s.f ∧
    Computes (.decd a) s a .dword (BitVec.ofNat 32 (x .dword + (2 ^ 32 - 1))) s.f ∧
    Computes (.negb a) s a .byte (BitVec.ofNat 32 (256 - x .byte)) s.f ∧
    Computes (.negd a) s a .dword (BitVec.ofNat 32 (2 ^ 32 - x .dword)) s.f

/-! ## Logic and shifts -/

/-- 42_logic_shift.md R270 to R274: AND, OR and XOR write their result and FZ/FS; TEST writes only FZ/FS of the AND;
NOT writes the complement and no flag. FC is cleared by the first four. -/
def Obligations.LogicResultsAndFlags : Prop :=
  ∀ (s : State) (bm : Bool) (a b : Operand),
    let w := widthOf bm
    let v1 := operandValue s a w
    let v2 := operandValue s b w
    let flags := fun r : Word => flagWord .idiomatic false (decide (r.toNat = 0)) r.msb
    Computes (.and bm a b) s a w (v1 &&& v2) (flags (v1 &&& v2)) ∧
    Computes (.or bm a b) s a w (v1 ||| v2) (flags (v1 ||| v2)) ∧
    Computes (.xor bm a b) s a w (v1 ^^^ v2) (flags (v1 ^^^ v2)) ∧
    SetsFlags (.test bm a b) s (flags (v1 &&& v2)) ∧
    Computes (.not bm a) s a w (~~~ v1) s.f

/-- 42_logic_shift.md R275 to R278: the shifts by `v2 mod 32`, the carry from a shift by `v2 - 1 mod 32`, computed at
32 bits in either byte mode. -/
def Obligations.ShiftResultsAndFlags : Prop :=
  ∀ (s : State) (bm : Bool) (a b : Operand),
    let w := widthOf bm
    let v1 := operandValue s a w
    let v2 := operandValue s b w
    let k := v2.toNat % 32
    let k1 := (v2.toNat + 31) % 32
    let l : Word := BitVec.ofNat 32 (v1.toNat * 2 ^ k)
    let r : Word := BitVec.ofNat 32 (v1.toNat / 2 ^ k)
    let x : Word := BitVec.ofInt 32 (v1.toInt / 2 ^ k)
    let flags := fun (c : Bool) (v : Word) => flagWord .idiomatic c (decide (v = 0#32)) v.msb
    Computes (.shl bm a b) s a w l (flags (v1.getLsbD (31 - k1)) l) ∧
    Computes (.shr bm a b) s a w r (flags (v1.getLsbD k1) r) ∧
    Computes (.sar bm a b) s a w x (flags (v1.getLsbD k1) x)

/-! ## Control transfer -/

/-- 43_control.md R303 to R311: JMP transfers always and each conditional jump exactly when its flags say so; a jump
not taken only advances; no jump writes F, a register or memory. -/
def Obligations.JumpsFollowTheirFlags : Prop :=
  ∀ (s : State) (a : Operand),
    let fc := s.f.getLsbD 0
    let fz := s.f.getLsbD 1
    let fs := s.f.getLsbD 31
    JumpsWhen true (.jmp a) a s ∧ JumpsWhen fz (.jz a) a s ∧ JumpsWhen (!fz) (.jnz a) a s ∧
    JumpsWhen fs (.js a) a s ∧ JumpsWhen (!fs) (.jns a) a s ∧ JumpsWhen fc (.jb a) a s ∧
    JumpsWhen (fc || fz) (.jbe a) a s ∧ JumpsWhen (!(fc || fz)) (.ja a) a s ∧ JumpsWhen (!fc) (.jae a) a s

/-- 43_control.md R312: CALL moves R7 down by 4, stores IP + 1 at the masked new R7, then reads its target (at the
location resolved before) and transfers; the push stays whatever the transfer does. The dword stored is IP + 1 taken
mod 2^32, read into the rule for an IP of 2^32 - 1 or more (log entry 18). -/
def Obligations.CallPushesThenTransfers : Prop :=
  ∀ (s : State) (a : Operand), ∃ u t, exec (.call a) s = .next t ∧
    (∀ q, u.reg q = if q = .r7 then s.reg .r7 - 4#32 else s.reg q) ∧
    StoredAt s.mem u.mem ((s.reg .r7 - 4#32).toNat % 2 ^ 18) .dword (BitVec.ofNat 32 (s.ip + 1)) ∧
    u = { s with regs := u.regs, mem := u.mem } ∧
    Transferred u t (readOp u (resolve s.regs a) .dword)

/-- 43_control.md R313: RET finishes with R7 at or above MEMSIZE, with nothing else changed; otherwise it transfers to
the dword at R7, and only a transfer that continues adds 4 to R7. -/
def Obligations.RetFinishesOrPopsItsTarget : Prop :=
  ∀ s : State,
    (0x40000 ≤ (s.reg .r7).toNat → exec .ret s = .next { s with phase := .ended .finished }) ∧
    ((s.reg .r7).toNat < 0x40000 →
      let target := memRead32 s.mem (s.reg .r7).toNat
      ∃ u t, Transferred s u target ∧ exec .ret s = .next t ∧
        if s.cmdCount ≤ target.toNat ∨ s.budget - 1 ≤ 0 then t = u
        else t = { u with regs := t.regs } ∧ ∀ q, t.reg q = if q = .r7 then s.reg .r7 + 4#32 else s.reg q)

/-- 43_control.md R301, 10_state.md R40: an executed instruction after which the execute goes on decrements the budget
by exactly 1; one that finishes leaves it; one that exhausts it decrements it to 0 or below. -/
def Obligations.EveryInstructionCostsOneBudgetUnit : Prop :=
  ∀ (i : Instr) (s t : State), s.phase = .running → exec i s = .next t →
    (t.phase = .running ∧ t.budget = s.budget - 1) ∨ (t.phase = .ended .finished ∧ t.budget = s.budget) ∨
    (t.phase = .ended .exhausted ∧ t.budget = s.budget - 1 ∧ t.budget ≤ 0)

/-! ## Stack -/

/-- 44_stack.md R330, R336: PUSH and PUSHF move R7 down by 4 and store 4 bytes at the masked new R7: PUSH the
operand's value read after R7 changed, at the location resolved before; PUSHF the whole of F. F is unchanged. -/
def Obligations.PushesStoreBelowTheStackPointer : Prop :=
  ∀ (s : State) (a : Operand),
    let sp := s.reg .r7 - 4#32
    let pushed := match a with
      | .reg r => if r = .r7 then sp else s.reg r
      | .imm v => v
      | .mem r d => memRead32 s.mem ((s.reg r + d).toNat % 2 ^ 18)
      | .memAbs d => memRead32 s.mem (d.toNat % 2 ^ 18)
    ∀ p ∈ [(Instr.push a, pushed), (Instr.pushf, s.f)], ∃ t, exec p.1 s = .next t ∧ Advanced s t ∧ t.f = s.f ∧
      (∀ q, t.reg q = if q = .r7 then sp else s.reg q) ∧ StoredAt s.mem t.mem (sp.toNat % 2 ^ 18) .dword p.2

/-- 44_stack.md R331, R337: POP writes the dword at the masked R7 to its operand and then adds 4 to R7 (to the value
written, where the operand is R7), F unchanged; POPF replaces all of F by that dword and adds 4 to R7. -/
def Obligations.PopsLoadFromTheStackPointer : Prop :=
  ∀ (s : State) (a : Operand),
    let v := memRead32 s.mem ((s.reg .r7).toNat % 2 ^ 18)
    (∃ u t, exec (.pop a) s = .next t ∧ Advanced s t ∧ t.f = s.f ∧ WrittenAt s u (resolve s.regs a) .dword v ∧
      SameBytes u t ∧ ∀ q, t.reg q = if q = .r7 then u.reg .r7 + 4#32 else u.reg q) ∧
    (∃ t, exec .popf s = .next t ∧ Advanced s t ∧ t.f = v ∧ SameBytes s t ∧
      ∀ q, t.reg q = if q = .r7 then s.reg .r7 + 4#32 else s.reg q)

/-- 44_stack.md R334: PUSHA stores R0 to R7, R7 with its old value, in masked slots at old R7 - 4 down to
old R7 - 32, moves R7 down by 32 and leaves F; every byte outside the eight slots is as before. -/
def Obligations.PushaStoresAllRegisters : Prop :=
  ∀ s : State, ∃ t, exec .pusha s = .next t ∧ Advanced s t ∧ t.f = s.f ∧
    (∀ q, t.reg q = if q = .r7 then s.reg .r7 - 32#32 else s.reg q) ∧
    (∀ q : Reg, memRead32 t.mem ((s.reg .r7 - BitVec.ofNat 32 (4 * q.field + 4)).toNat % 2 ^ 18) = s.reg q) ∧
    ∀ a, (∀ j, j < 8 → a < (s.reg .r7 - BitVec.ofNat 32 (4 * j + 4)).toNat % 2 ^ 18 ∨
        (s.reg .r7 - BitVec.ofNat 32 (4 * j + 4)).toNat % 2 ^ 18 + 4 ≤ a) →
      readByte t.mem a = readByte s.mem a

/-- 44_stack.md R335: POPA loads R7 from the slot at old R7 up to R0 from the slot at old R7 + 28, and stores
nothing. -/
def Obligations.PopaLoadsAllRegisters : Prop :=
  ∀ s : State, ∃ t, exec .popa s = .next t ∧ Advanced s t ∧ t.f = s.f ∧ SameBytes s t ∧
    ∀ q : Reg, t.reg q = memRead32 s.mem ((s.reg .r7 + BitVec.ofNat 32 (4 * (7 - q.field))).toNat % 2 ^ 18)

/-- 44_stack.md R335's corner case: `PUSHA; POPA` restores all eight registers, R7 included, from every state. -/
def Obligations.PopaAfterPushaRestoresRegisters : Prop :=
  ∀ s t u : State, exec .pusha s = .next t → exec .popa t = .next u → u.regs = s.regs

/-! ## STANDARD and PRINT -/

/-- 45_system.md R352, R354: STANDARD with an id whose precondition holds replaces Mem by the filter's output and
advances; with any other id or precondition it is declined, which changes nothing but the `declined` flag, with
control advancing. Ids outside 1 to 7 decline. -/
def Obligations.StandardDeclinesExactlyOutsideItsPrecondition : Prop :=
  ∀ (s : State) (a : Operand),
    let id := (operandValue s a .dword).toNat
    let size := (s.reg .r4).toNat
    let r0 := (s.reg .r0).toNat
    let pre := ((id = 1 ∨ id = 2) ∧ 4 ≤ size ∧ size ≤ 0x40000) ∨ (id = 3 ∧ 21 ≤ size ∧ size ≤ 0x40000) ∨
      (id = 4 ∧ 3 ≤ size ∧ (r0 + (2 ^ 32 - 3)) % 2 ^ 32 ≤ size ∧ (s.reg .r1).toNat ≤ 2) ∨
      (id = 5 ∧ size < 0x20000 ∧ 0 < r0 ∧ r0 ≤ 128) ∨ (id = 6 ∧ size < 0x20000 ∧ 0 < r0 ∧ r0 ≤ 1024) ∨
      (id = 7 ∧ size < 0x1E000)
    (¬ pre → exec (.standard a) s =
      .next { s with declined := true, ip := s.ip + 1, budget := s.budget - 1 }) ∧
    (pre → ∃ t, exec (.standard a) s = .next t ∧ Advanced s t ∧ t.regs = s.regs ∧ t.f = s.f ∧
      stdFilter (operandValue s a .dword) s.regs s.mem = some t.mem)

/-- 45_system.md R351 clauses 1 and 4: an accepting filter writes only Mem, and Mem' holds its output size at 0x3C01C
and its output offset at 0x3C020, as little-endian dwords; it keeps the canonical form of memory. The size and the
offset are free values of the model (log entry 5). -/
def Obligations.AcceptingFilterRecordsItsWindow : Prop :=
  ∀ (id : Word) (rs : Regs) (m m' : Memory), stdFilter id rs m = some m' →
    memRead32 m' 0x3C01C = Config.stdFilterSize id rs.toList m ∧
    memRead32 m' 0x3C020 = Config.stdFilterOffset id rs.toList m ∧
    (Memory.wf m = true → Memory.wf m' = true)

/-- 45_system.md R356: PRINT only advances. -/
def Obligations.PrintDoesNothing : Prop :=
  ∀ s : State, exec .print s = .next { s with ip := s.ip + 1, budget := s.budget - 1 }

/-! ## The execute wrapper and the host -/

/-- 70_reset_and_hazards.md R430: the start of `execute(P)`: registers from InitR with R7 = MEMSIZE, F = 0, IP = 0,
the budget full, `declined` clear; GlobalData at 0x3C000 and StaticData after it, 0x2000 bytes in all at most; no
other byte written. -/
def Obligations.ExecuteStartsFromTheProgram : Prop :=
  ∀ (s : State) (p : Nat) (prog : Program) (rest : List HostRequest),
    s.phase = .idle → s.host = .execute p :: rest → s.programs[p]? = some prog →
    ∃ t, step s = .next t ∧ t.phase = .running ∧ t.cur = p ∧ t.programs = s.programs ∧ t.host = rest ∧
      t.cfg = s.cfg ∧ t.reader = s.reader ∧ t.reply = s.reply ∧
      t.reg .r0 = prog.initR.r0 ∧ t.reg .r1 = prog.initR.r1 ∧ t.reg .r2 = prog.initR.r2 ∧ t.reg .r3 = prog.initR.r3 ∧
      t.reg .r4 = prog.initR.r4 ∧ t.reg .r5 = prog.initR.r5 ∧ t.reg .r6 = prog.initR.r6 ∧ t.reg .r7 = 0x40000#32 ∧
      t.f = 0#32 ∧ t.ip = 0 ∧ t.budget = 25000000 ∧ t.declined = false ∧
      ∀ a, readByte t.mem a =
        let image := prog.globalData.take 0x2000 ++ prog.staticData.take (0x2000 - min prog.globalData.length 0x2000)
        if h : 0x3C000 ≤ a ∧ a - 0x3C000 < image.length then image[a - 0x3C000] else readByte s.mem a

/-- 70_reset_and_hazards.md R431, R433, R435: the end of an execute returns the outcome, `declined` and the window;
the window is the masked offset and size of the control block, or (0, 0) where their sum reaches MEMSIZE, or where the
outcome is Exhausted and EXHAUST_WINDOW is empty. Mem persists and the instance is idle. -/
def Obligations.ExecuteEndReportsTheResultWindow : Prop :=
  ∀ (s : State) (o : ExecOutcome), s.phase = .ended o →
    let off := (memRead32 s.mem 0x3C020).toNat % 2 ^ 18
    let size := (memRead32 s.mem 0x3C01C).toNat % 2 ^ 18
    let empty := (s.cfg.exhaustWindow = .empty ∧ o = .exhausted) ∨ 0x40000 ≤ off + size
    ∃ t res, step s = .next t ∧ t.phase = .idle ∧ t.mem = s.mem ∧ t.reply = .executed res ∧
      t.cfg = s.cfg ∧ t.host = s.host ∧ t.programs.length = s.programs.length ∧
      res.outcome = o ∧ res.declined = s.declined ∧
      (empty → res.windowOffset = 0#32 ∧ res.windowSize = 0#32) ∧
      (¬ empty → res.windowOffset.toNat = off ∧ res.windowSize.toNat = size) ∧
      ∀ p, t.programs[s.cur]? = some p →
        p.filteredDataOffset = res.windowOffset ∧ p.filteredDataSize = res.windowSize ∧
        p.globalData = res.globalData

/-- 70_reset_and_hazards.md R434: the write-back: with n the smaller of the dword at 0x3C030 and 0x1FC0, GlobalData is
the n + 64 bytes from 0x3C000, or empty if n is 0. -/
def Obligations.GlobalDataWriteBack : Prop :=
  ∀ (s : State) (o : ExecOutcome) (p : Program), s.phase = .ended o → s.programs[s.cur]? = some p →
    let n := min (memRead32 s.mem 0x3C030).toNat 0x1FC0
    ∃ t q, step s = .next t ∧ t.programs[s.cur]? = some q ∧
      (n = 0 → q.globalData = []) ∧
      (n ≠ 0 → q.globalData.length = n + 64 ∧ ∀ j, j < n + 64 → q.globalData[j]? = some (readByte s.mem (0x3C000 + j)))

/-- 70_reset_and_hazards.md section 2 (R436): with POISON_ON_EXHAUST, the end of an exhausted execute leaves
instruction 0 of its Program a RET (one without operands, where the rule changes its opcode: log entry 16) and the rest
of Cmd as it was; at every other end of an execute Cmd is unchanged (10_state.md R43). StaticData, InitR and every
other Program are unchanged at every end; GlobalData and the window are stated elsewhere. -/
def Obligations.ExecuteEndRewritesInstructionsOnlyByPoison : Prop :=
  ∀ (s : State) (o : ExecOutcome), s.phase = .ended o → ∃ t, step s = .next t ∧
    (∀ n, n ≠ s.cur → t.programs[n]? = s.programs[n]?) ∧
    ∀ p, s.programs[s.cur]? = some p → ∃ q, t.programs[s.cur]? = some q ∧
      q.staticData = p.staticData ∧ q.initR = p.initR ∧ q.cmd.length = p.cmd.length ∧
      (∀ j, 0 < j → q.cmd[j]? = p.cmd[j]?) ∧
      (s.cfg.poisonOnExhaust = true → o = .exhausted → p.cmd ≠ [] → q.cmd[0]? = some .ret) ∧
      (s.cfg.poisonOnExhaust = false ∨ o = .finished → q.cmd = p.cmd)

/-- 70_reset_and_hazards.md sections 1 and 3 (R432, R437) with 30_encoding.md R139: a host's `prepare` adds the Program
of the bytecode, or is refused; either way it touches no register, flag, memory or Program that stood before. That
requests stand in a list, each answered in the reply field, is the model's choice (log entry 7), and so is that a
refusal is a next state with a reply, read from R402's `refused input` (log entry 10). -/
def Obligations.PrepareRequestTouchesNoVmState : Prop :=
  ∀ (s : State) (code : List Byte) (rest : List HostRequest), s.phase = .idle → s.host = .prepare code :: rest →
    ∃ t, step s = .next t ∧ t.phase = .idle ∧ t.regs = s.regs ∧ t.f = s.f ∧ t.ip = s.ip ∧ t.budget = s.budget ∧
      t.declined = s.declined ∧ t.mem = s.mem ∧ t.cfg = s.cfg ∧ t.cur = s.cur ∧ t.host = rest ∧
      (1 ≤ code.length ∧ code.length ≤ s.cfg.maxCodeSize →
        t.reply = .prepared s.programs.length ∧
        ∃ p, t.programs = s.programs ++ [p] ∧ p.cmd = (prepareCode s.cfg code).cmd ∧
          p.staticData = (prepareCode s.cfg code).staticData) ∧
      (¬ (1 ≤ code.length ∧ code.length ≤ s.cfg.maxCodeSize) →
        t.reply = .prepareRefused ∧ t.programs = s.programs)

/-- 70_reset_and_hazards.md section 3 (R437), 10_state.md section 6: a host's set-up of an existing Program writes its
InitR or its GlobalData and leaves everything else of the Program, its Cmd and StaticData included; a set-up of Mem
writes its bytes, anywhere in 0x40004, and no other byte. None touches a register, F, IP or another Program. The request
list and the reply are the model's (log entry 7), and so are a GlobalData of any length (log entries 20 and 23) and the
refusal by name of a Program that does not exist or a write past the memory (log entry 11). -/
def Obligations.SetUpRequestsWriteOnlyWhatTheyName : Prop :=
  ∀ (s : State) (rest : List HostRequest), s.phase = .idle →
    (∀ p r g, s.host = .setInitR p r :: rest → s.programs[p]? = some g →
      step s = .next { s with host := rest, reply := .done, programs := s.programs.set p { g with initR := r } }) ∧
    (∀ p d g, s.host = .setGlobalData p d :: rest → s.programs[p]? = some g →
      step s = .next { s with host := rest, reply := .done, programs := s.programs.set p { g with globalData := d } }) ∧
    (∀ a d, s.host = .writeMem a d :: rest → a + d.length ≤ 0x40004 →
      ∃ t, step s = .next t ∧ t = { s with host := rest, reply := .done, mem := t.mem } ∧
        ∀ x, readByte t.mem x = if h : a ≤ x ∧ x - a < d.length then d[x - a] else readByte s.mem x) ∧
    (∀ p r, s.host = .setInitR p r :: rest → s.programs.length ≤ p → step s = .refused (.noSuchProgram p)) ∧
    (∀ p d, s.host = .setGlobalData p d :: rest → s.programs.length ≤ p → step s = .refused (.noSuchProgram p)) ∧
    (∀ p, s.host = .execute p :: rest → s.programs.length ≤ p → step s = .refused (.noSuchProgram p)) ∧
    (∀ a d, s.host = .writeMem a d :: rest → 0x40004 < a + d.length → step s = .refused (.writeOutsideMemory a))

/-! ## The whole machine -/

/-- 43_control.md section 1: a running instance's step is the execution of the instruction `Cmd[IP]`; and the step after
`withFetchWord` is the execution of the decoded table word (the model's own placing of it, log entries 7 and 19). -/
def Obligations.StepExecutesTheFetchedInstruction : Prop :=
  (∀ (s : State) (i : Instr), s.phase = .running → s.program.cmd[s.ip]? = some i → step s = exec i s) ∧
  ∀ (s : State) (nbits w : Nat) (i : Instr), decodeTableWord nbits w = some i →
    step (s.withFetchWord nbits w) = exec i (s.withFetchWord nbits w)

/-- 20_memory.md R90, 10_state.md R43: while an execute runs, no instruction changes a Program, the choice of Program,
the parameters, the decoder or the host's port. -/
def Obligations.NoInstructionChangesAProgram : Prop :=
  ∀ (i : Instr) (s t : State), exec i s = .next t →
    t.programs = s.programs ∧ t.cur = s.cur ∧ t.cfg = s.cfg ∧ t.reader = s.reader ∧ t.host = s.host ∧ t.reply = s.reply

/-- 10_state.md R38: the instructions it does not list as writing F leave F unchanged. -/
def Obligations.OtherInstructionsLeaveFlags : Prop :=
  ∀ (i : Instr) (s t : State), i.opcode ∉ [1, 2, 3, 6, 7, 9, 10, 11, 12, 24, 25, 26, 27, 31, 37, 38, 42, 43] →
    exec i s = .next t → t.f = s.f

/-- The reset state meets the invariant. The spec gives a new instance no values (70_reset_and_hazards.md R432): those it
is stated of are the model's (log entries 2, 3, 4 and 22). -/
def Obligations.ResetMeetsTheInvariant : Prop := Invariant State.reset

/-- Every step, of an instruction, of the wrapper or of the host's port, keeps the invariant: IP inside its Program
(10_state.md section 2), every Program with its terminal RET (30_encoding.md section 5), windows inside memory, and
memory in the model's canonical form (log entry 2). -/
def Obligations.StepKeepsTheInvariant : Prop :=
  ∀ s t : State, Invariant s → step s = .next t → Invariant t

/-- From a state that meets the invariant no step faults, and a running or ended instance always completes its step
(60_exceptions.md R400; 10_state.md section 2). -/
def Obligations.NoStepFaultsUnderTheInvariant : Prop :=
  ∀ s : State, Invariant s → (∀ r, step s ≠ .fault r) ∧ (s.phase ≠ .idle → Completes s)

/-- Every execute terminates (60_exceptions.md section 7): from a running state that meets the invariant, at most as
many steps as the budget and the length of the Program together reach the end of the loop. -/
def Obligations.EveryExecuteTerminates : Prop :=
  ∀ s : State, Invariant s → s.phase = .running →
    ∃ (n : Nat) (t : State) (o : ExecOutcome), n ≤ s.budget.toNat + s.cmdCount ∧ steps n s = .next t ∧ t.phase = .ended o
end

