-- ==== Sys2Proof/Laws/State.lean ====
section
/-! SUPPORT. One lemma for each field after each named update, and after each shared operation made of them. -/

namespace Sys2Proof.Machine

section
variable (s : State)

/-! ### setRegs -/

@[simp] theorem State.setRegs_cfg (rs : Regs) : (s.setRegs rs).cfg = s.cfg := rfl
@[simp] theorem State.setRegs_phase (rs : Regs) : (s.setRegs rs).phase = s.phase := rfl
@[simp] theorem State.setRegs_regs (rs : Regs) : (s.setRegs rs).regs = rs := rfl
@[simp] theorem State.setRegs_f (rs : Regs) : (s.setRegs rs).f = s.f := rfl
@[simp] theorem State.setRegs_ip (rs : Regs) : (s.setRegs rs).ip = s.ip := rfl
@[simp] theorem State.setRegs_budget (rs : Regs) : (s.setRegs rs).budget = s.budget := rfl
@[simp] theorem State.setRegs_declined (rs : Regs) : (s.setRegs rs).declined = s.declined := rfl
@[simp] theorem State.setRegs_mem (rs : Regs) : (s.setRegs rs).mem = s.mem := rfl
@[simp] theorem State.setRegs_programs (rs : Regs) : (s.setRegs rs).programs = s.programs := rfl
@[simp] theorem State.setRegs_cur (rs : Regs) : (s.setRegs rs).cur = s.cur := rfl
@[simp] theorem State.setRegs_reader (rs : Regs) : (s.setRegs rs).reader = s.reader := rfl
@[simp] theorem State.setRegs_host (rs : Regs) : (s.setRegs rs).host = s.host := rfl
@[simp] theorem State.setRegs_reply (rs : Regs) : (s.setRegs rs).reply = s.reply := rfl

/-! ### setF -/

@[simp] theorem State.setF_cfg (v : Word) : (s.setF v).cfg = s.cfg := rfl
@[simp] theorem State.setF_phase (v : Word) : (s.setF v).phase = s.phase := rfl
@[simp] theorem State.setF_regs (v : Word) : (s.setF v).regs = s.regs := rfl
@[simp] theorem State.setF_f (v : Word) : (s.setF v).f = v := rfl
@[simp] theorem State.setF_ip (v : Word) : (s.setF v).ip = s.ip := rfl
@[simp] theorem State.setF_budget (v : Word) : (s.setF v).budget = s.budget := rfl
@[simp] theorem State.setF_declined (v : Word) : (s.setF v).declined = s.declined := rfl
@[simp] theorem State.setF_mem (v : Word) : (s.setF v).mem = s.mem := rfl
@[simp] theorem State.setF_programs (v : Word) : (s.setF v).programs = s.programs := rfl
@[simp] theorem State.setF_cur (v : Word) : (s.setF v).cur = s.cur := rfl
@[simp] theorem State.setF_reader (v : Word) : (s.setF v).reader = s.reader := rfl
@[simp] theorem State.setF_host (v : Word) : (s.setF v).host = s.host := rfl
@[simp] theorem State.setF_reply (v : Word) : (s.setF v).reply = s.reply := rfl

/-! ### setIp -/

@[simp] theorem State.setIp_cfg (i : Nat) : (s.setIp i).cfg = s.cfg := rfl
@[simp] theorem State.setIp_phase (i : Nat) : (s.setIp i).phase = s.phase := rfl
@[simp] theorem State.setIp_regs (i : Nat) : (s.setIp i).regs = s.regs := rfl
@[simp] theorem State.setIp_f (i : Nat) : (s.setIp i).f = s.f := rfl
@[simp] theorem State.setIp_ip (i : Nat) : (s.setIp i).ip = i := rfl
@[simp] theorem State.setIp_budget (i : Nat) : (s.setIp i).budget = s.budget := rfl
@[simp] theorem State.setIp_declined (i : Nat) : (s.setIp i).declined = s.declined := rfl
@[simp] theorem State.setIp_mem (i : Nat) : (s.setIp i).mem = s.mem := rfl
@[simp] theorem State.setIp_programs (i : Nat) : (s.setIp i).programs = s.programs := rfl
@[simp] theorem State.setIp_cur (i : Nat) : (s.setIp i).cur = s.cur := rfl
@[simp] theorem State.setIp_reader (i : Nat) : (s.setIp i).reader = s.reader := rfl
@[simp] theorem State.setIp_host (i : Nat) : (s.setIp i).host = s.host := rfl
@[simp] theorem State.setIp_reply (i : Nat) : (s.setIp i).reply = s.reply := rfl

/-! ### setBudget -/

@[simp] theorem State.setBudget_cfg (b : Int) : (s.setBudget b).cfg = s.cfg := rfl
@[simp] theorem State.setBudget_phase (b : Int) : (s.setBudget b).phase = s.phase := rfl
@[simp] theorem State.setBudget_regs (b : Int) : (s.setBudget b).regs = s.regs := rfl
@[simp] theorem State.setBudget_f (b : Int) : (s.setBudget b).f = s.f := rfl
@[simp] theorem State.setBudget_ip (b : Int) : (s.setBudget b).ip = s.ip := rfl
@[simp] theorem State.setBudget_budget (b : Int) : (s.setBudget b).budget = b := rfl
@[simp] theorem State.setBudget_declined (b : Int) : (s.setBudget b).declined = s.declined := rfl
@[simp] theorem State.setBudget_mem (b : Int) : (s.setBudget b).mem = s.mem := rfl
@[simp] theorem State.setBudget_programs (b : Int) : (s.setBudget b).programs = s.programs := rfl
@[simp] theorem State.setBudget_cur (b : Int) : (s.setBudget b).cur = s.cur := rfl
@[simp] theorem State.setBudget_reader (b : Int) : (s.setBudget b).reader = s.reader := rfl
@[simp] theorem State.setBudget_host (b : Int) : (s.setBudget b).host = s.host := rfl
@[simp] theorem State.setBudget_reply (b : Int) : (s.setBudget b).reply = s.reply := rfl

/-! ### setMem -/

@[simp] theorem State.setMem_cfg (m : Memory) : (s.setMem m).cfg = s.cfg := rfl
@[simp] theorem State.setMem_phase (m : Memory) : (s.setMem m).phase = s.phase := rfl
@[simp] theorem State.setMem_regs (m : Memory) : (s.setMem m).regs = s.regs := rfl
@[simp] theorem State.setMem_f (m : Memory) : (s.setMem m).f = s.f := rfl
@[simp] theorem State.setMem_ip (m : Memory) : (s.setMem m).ip = s.ip := rfl
@[simp] theorem State.setMem_budget (m : Memory) : (s.setMem m).budget = s.budget := rfl
@[simp] theorem State.setMem_declined (m : Memory) : (s.setMem m).declined = s.declined := rfl
@[simp] theorem State.setMem_mem (m : Memory) : (s.setMem m).mem = m := rfl
@[simp] theorem State.setMem_programs (m : Memory) : (s.setMem m).programs = s.programs := rfl
@[simp] theorem State.setMem_cur (m : Memory) : (s.setMem m).cur = s.cur := rfl
@[simp] theorem State.setMem_reader (m : Memory) : (s.setMem m).reader = s.reader := rfl
@[simp] theorem State.setMem_host (m : Memory) : (s.setMem m).host = s.host := rfl
@[simp] theorem State.setMem_reply (m : Memory) : (s.setMem m).reply = s.reply := rfl

/-! ### setPhase -/

@[simp] theorem State.setPhase_cfg (p : Phase) : (s.setPhase p).cfg = s.cfg := rfl
@[simp] theorem State.setPhase_phase (p : Phase) : (s.setPhase p).phase = p := rfl
@[simp] theorem State.setPhase_regs (p : Phase) : (s.setPhase p).regs = s.regs := rfl
@[simp] theorem State.setPhase_f (p : Phase) : (s.setPhase p).f = s.f := rfl
@[simp] theorem State.setPhase_ip (p : Phase) : (s.setPhase p).ip = s.ip := rfl
@[simp] theorem State.setPhase_budget (p : Phase) : (s.setPhase p).budget = s.budget := rfl
@[simp] theorem State.setPhase_declined (p : Phase) : (s.setPhase p).declined = s.declined := rfl
@[simp] theorem State.setPhase_mem (p : Phase) : (s.setPhase p).mem = s.mem := rfl
@[simp] theorem State.setPhase_programs (p : Phase) : (s.setPhase p).programs = s.programs := rfl
@[simp] theorem State.setPhase_cur (p : Phase) : (s.setPhase p).cur = s.cur := rfl
@[simp] theorem State.setPhase_reader (p : Phase) : (s.setPhase p).reader = s.reader := rfl
@[simp] theorem State.setPhase_host (p : Phase) : (s.setPhase p).host = s.host := rfl
@[simp] theorem State.setPhase_reply (p : Phase) : (s.setPhase p).reply = s.reply := rfl

/-! ### setDeclined -/

@[simp] theorem State.setDeclined_cfg (b : Bool) : (s.setDeclined b).cfg = s.cfg := rfl
@[simp] theorem State.setDeclined_phase (b : Bool) : (s.setDeclined b).phase = s.phase := rfl
@[simp] theorem State.setDeclined_regs (b : Bool) : (s.setDeclined b).regs = s.regs := rfl
@[simp] theorem State.setDeclined_f (b : Bool) : (s.setDeclined b).f = s.f := rfl
@[simp] theorem State.setDeclined_ip (b : Bool) : (s.setDeclined b).ip = s.ip := rfl
@[simp] theorem State.setDeclined_budget (b : Bool) : (s.setDeclined b).budget = s.budget := rfl
@[simp] theorem State.setDeclined_declined (b : Bool) : (s.setDeclined b).declined = b := rfl
@[simp] theorem State.setDeclined_mem (b : Bool) : (s.setDeclined b).mem = s.mem := rfl
@[simp] theorem State.setDeclined_programs (b : Bool) : (s.setDeclined b).programs = s.programs := rfl
@[simp] theorem State.setDeclined_cur (b : Bool) : (s.setDeclined b).cur = s.cur := rfl
@[simp] theorem State.setDeclined_reader (b : Bool) : (s.setDeclined b).reader = s.reader := rfl
@[simp] theorem State.setDeclined_host (b : Bool) : (s.setDeclined b).host = s.host := rfl
@[simp] theorem State.setDeclined_reply (b : Bool) : (s.setDeclined b).reply = s.reply := rfl

/-! ### setPrograms -/

@[simp] theorem State.setPrograms_cfg (ps : List Program) : (s.setPrograms ps).cfg = s.cfg := rfl
@[simp] theorem State.setPrograms_phase (ps : List Program) : (s.setPrograms ps).phase = s.phase := rfl
@[simp] theorem State.setPrograms_regs (ps : List Program) : (s.setPrograms ps).regs = s.regs := rfl
@[simp] theorem State.setPrograms_f (ps : List Program) : (s.setPrograms ps).f = s.f := rfl
@[simp] theorem State.setPrograms_ip (ps : List Program) : (s.setPrograms ps).ip = s.ip := rfl
@[simp] theorem State.setPrograms_budget (ps : List Program) : (s.setPrograms ps).budget = s.budget := rfl
@[simp] theorem State.setPrograms_declined (ps : List Program) : (s.setPrograms ps).declined = s.declined := rfl
@[simp] theorem State.setPrograms_mem (ps : List Program) : (s.setPrograms ps).mem = s.mem := rfl
@[simp] theorem State.setPrograms_programs (ps : List Program) : (s.setPrograms ps).programs = ps := rfl
@[simp] theorem State.setPrograms_cur (ps : List Program) : (s.setPrograms ps).cur = s.cur := rfl
@[simp] theorem State.setPrograms_reader (ps : List Program) : (s.setPrograms ps).reader = s.reader := rfl
@[simp] theorem State.setPrograms_host (ps : List Program) : (s.setPrograms ps).host = s.host := rfl
@[simp] theorem State.setPrograms_reply (ps : List Program) : (s.setPrograms ps).reply = s.reply := rfl

/-! ### setReply -/

@[simp] theorem State.setReply_cfg (r : Reply) : (s.setReply r).cfg = s.cfg := rfl
@[simp] theorem State.setReply_phase (r : Reply) : (s.setReply r).phase = s.phase := rfl
@[simp] theorem State.setReply_regs (r : Reply) : (s.setReply r).regs = s.regs := rfl
@[simp] theorem State.setReply_f (r : Reply) : (s.setReply r).f = s.f := rfl
@[simp] theorem State.setReply_ip (r : Reply) : (s.setReply r).ip = s.ip := rfl
@[simp] theorem State.setReply_budget (r : Reply) : (s.setReply r).budget = s.budget := rfl
@[simp] theorem State.setReply_declined (r : Reply) : (s.setReply r).declined = s.declined := rfl
@[simp] theorem State.setReply_mem (r : Reply) : (s.setReply r).mem = s.mem := rfl
@[simp] theorem State.setReply_programs (r : Reply) : (s.setReply r).programs = s.programs := rfl
@[simp] theorem State.setReply_cur (r : Reply) : (s.setReply r).cur = s.cur := rfl
@[simp] theorem State.setReply_reader (r : Reply) : (s.setReply r).reader = s.reader := rfl
@[simp] theorem State.setReply_host (r : Reply) : (s.setReply r).host = s.host := rfl
@[simp] theorem State.setReply_reply (r : Reply) : (s.setReply r).reply = r := rfl

/-! ### setHost -/

@[simp] theorem State.setHost_cfg (h : List HostRequest) : (s.setHost h).cfg = s.cfg := rfl
@[simp] theorem State.setHost_phase (h : List HostRequest) : (s.setHost h).phase = s.phase := rfl
@[simp] theorem State.setHost_regs (h : List HostRequest) : (s.setHost h).regs = s.regs := rfl
@[simp] theorem State.setHost_f (h : List HostRequest) : (s.setHost h).f = s.f := rfl
@[simp] theorem State.setHost_ip (h : List HostRequest) : (s.setHost h).ip = s.ip := rfl
@[simp] theorem State.setHost_budget (h : List HostRequest) : (s.setHost h).budget = s.budget := rfl
@[simp] theorem State.setHost_declined (h : List HostRequest) : (s.setHost h).declined = s.declined := rfl
@[simp] theorem State.setHost_mem (h : List HostRequest) : (s.setHost h).mem = s.mem := rfl
@[simp] theorem State.setHost_programs (h : List HostRequest) : (s.setHost h).programs = s.programs := rfl
@[simp] theorem State.setHost_cur (h : List HostRequest) : (s.setHost h).cur = s.cur := rfl
@[simp] theorem State.setHost_reader (h : List HostRequest) : (s.setHost h).reader = s.reader := rfl
@[simp] theorem State.setHost_host (h : List HostRequest) : (s.setHost h).host = h := rfl
@[simp] theorem State.setHost_reply (h : List HostRequest) : (s.setHost h).reply = s.reply := rfl

/-! ### setReg -/

@[simp] theorem State.setReg_cfg (r : Reg) (v : Word) : (s.setReg r v).cfg = s.cfg := rfl
@[simp] theorem State.setReg_phase (r : Reg) (v : Word) : (s.setReg r v).phase = s.phase := rfl
@[simp] theorem State.setReg_regs (r : Reg) (v : Word) : (s.setReg r v).regs = s.regs.set r v := rfl
@[simp] theorem State.setReg_f (r : Reg) (v : Word) : (s.setReg r v).f = s.f := rfl
@[simp] theorem State.setReg_ip (r : Reg) (v : Word) : (s.setReg r v).ip = s.ip := rfl
@[simp] theorem State.setReg_budget (r : Reg) (v : Word) : (s.setReg r v).budget = s.budget := rfl
@[simp] theorem State.setReg_declined (r : Reg) (v : Word) : (s.setReg r v).declined = s.declined := rfl
@[simp] theorem State.setReg_mem (r : Reg) (v : Word) : (s.setReg r v).mem = s.mem := rfl
@[simp] theorem State.setReg_programs (r : Reg) (v : Word) : (s.setReg r v).programs = s.programs := rfl
@[simp] theorem State.setReg_cur (r : Reg) (v : Word) : (s.setReg r v).cur = s.cur := rfl
@[simp] theorem State.setReg_reader (r : Reg) (v : Word) : (s.setReg r v).reader = s.reader := rfl
@[simp] theorem State.setReg_host (r : Reg) (v : Word) : (s.setReg r v).host = s.host := rfl
@[simp] theorem State.setReg_reply (r : Reg) (v : Word) : (s.setReg r v).reply = s.reply := rfl

/-! ### advance -/

@[simp] theorem advance_cfg : (advance s).cfg = s.cfg := rfl
@[simp] theorem advance_phase : (advance s).phase = s.phase := rfl
@[simp] theorem advance_regs : (advance s).regs = s.regs := rfl
@[simp] theorem advance_f : (advance s).f = s.f := rfl
@[simp] theorem advance_ip : (advance s).ip = s.ip + 1 := rfl
@[simp] theorem advance_budget : (advance s).budget = s.budget - 1 := rfl
@[simp] theorem advance_declined : (advance s).declined = s.declined := rfl
@[simp] theorem advance_mem : (advance s).mem = s.mem := rfl
@[simp] theorem advance_programs : (advance s).programs = s.programs := rfl
@[simp] theorem advance_cur : (advance s).cur = s.cur := rfl
@[simp] theorem advance_reader : (advance s).reader = s.reader := rfl
@[simp] theorem advance_host : (advance s).host = s.host := rfl
@[simp] theorem advance_reply : (advance s).reply = s.reply := rfl

/-! ### finish -/

@[simp] theorem finish_cfg (o : ExecOutcome) : (finish s o).cfg = s.cfg := rfl
@[simp] theorem finish_phase (o : ExecOutcome) : (finish s o).phase = .ended o := rfl
@[simp] theorem finish_regs (o : ExecOutcome) : (finish s o).regs = s.regs := rfl
@[simp] theorem finish_f (o : ExecOutcome) : (finish s o).f = s.f := rfl
@[simp] theorem finish_ip (o : ExecOutcome) : (finish s o).ip = s.ip := rfl
@[simp] theorem finish_budget (o : ExecOutcome) : (finish s o).budget = s.budget := rfl
@[simp] theorem finish_declined (o : ExecOutcome) : (finish s o).declined = s.declined := rfl
@[simp] theorem finish_mem (o : ExecOutcome) : (finish s o).mem = s.mem := rfl
@[simp] theorem finish_programs (o : ExecOutcome) : (finish s o).programs = s.programs := rfl
@[simp] theorem finish_cur (o : ExecOutcome) : (finish s o).cur = s.cur := rfl
@[simp] theorem finish_reader (o : ExecOutcome) : (finish s o).reader = s.reader := rfl
@[simp] theorem finish_host (o : ExecOutcome) : (finish s o).host = s.host := rfl
@[simp] theorem finish_reply (o : ExecOutcome) : (finish s o).reply = s.reply := rfl

/-! ### decSp -/

@[simp] theorem decSp_cfg : (decSp s).cfg = s.cfg := rfl
@[simp] theorem decSp_phase : (decSp s).phase = s.phase := rfl
@[simp] theorem decSp_regs : (decSp s).regs = s.regs.set .r7 (s.reg .r7 - 4#32) := rfl
@[simp] theorem decSp_f : (decSp s).f = s.f := rfl
@[simp] theorem decSp_ip : (decSp s).ip = s.ip := rfl
@[simp] theorem decSp_budget : (decSp s).budget = s.budget := rfl
@[simp] theorem decSp_declined : (decSp s).declined = s.declined := rfl
@[simp] theorem decSp_mem : (decSp s).mem = s.mem := rfl
@[simp] theorem decSp_programs : (decSp s).programs = s.programs := rfl
@[simp] theorem decSp_cur : (decSp s).cur = s.cur := rfl
@[simp] theorem decSp_reader : (decSp s).reader = s.reader := rfl
@[simp] theorem decSp_host : (decSp s).host = s.host := rfl
@[simp] theorem decSp_reply : (decSp s).reply = s.reply := rfl

/-! ### incSp -/

@[simp] theorem incSp_cfg : (incSp s).cfg = s.cfg := rfl
@[simp] theorem incSp_phase : (incSp s).phase = s.phase := rfl
@[simp] theorem incSp_regs : (incSp s).regs = s.regs.set .r7 (s.reg .r7 + 4#32) := rfl
@[simp] theorem incSp_f : (incSp s).f = s.f := rfl
@[simp] theorem incSp_ip : (incSp s).ip = s.ip := rfl
@[simp] theorem incSp_budget : (incSp s).budget = s.budget := rfl
@[simp] theorem incSp_declined : (incSp s).declined = s.declined := rfl
@[simp] theorem incSp_mem : (incSp s).mem = s.mem := rfl
@[simp] theorem incSp_programs : (incSp s).programs = s.programs := rfl
@[simp] theorem incSp_cur : (incSp s).cur = s.cur := rfl
@[simp] theorem incSp_reader : (incSp s).reader = s.reader := rfl
@[simp] theorem incSp_host : (incSp s).host = s.host := rfl
@[simp] theorem incSp_reply : (incSp s).reply = s.reply := rfl

/-! ### storeTop -/

@[simp] theorem storeTop_cfg (v : Word) : (storeTop s v).cfg = s.cfg := rfl
@[simp] theorem storeTop_phase (v : Word) : (storeTop s v).phase = s.phase := rfl
@[simp] theorem storeTop_regs (v : Word) : (storeTop s v).regs = s.regs := rfl
@[simp] theorem storeTop_f (v : Word) : (storeTop s v).f = s.f := rfl
@[simp] theorem storeTop_ip (v : Word) : (storeTop s v).ip = s.ip := rfl
@[simp] theorem storeTop_budget (v : Word) : (storeTop s v).budget = s.budget := rfl
@[simp] theorem storeTop_declined (v : Word) : (storeTop s v).declined = s.declined := rfl
@[simp] theorem storeTop_mem (v : Word) : (storeTop s v).mem = memWrite32 s.mem (maskAddr (s.reg .r7)) v := rfl
@[simp] theorem storeTop_programs (v : Word) : (storeTop s v).programs = s.programs := rfl
@[simp] theorem storeTop_cur (v : Word) : (storeTop s v).cur = s.cur := rfl
@[simp] theorem storeTop_reader (v : Word) : (storeTop s v).reader = s.reader := rfl
@[simp] theorem storeTop_host (v : Word) : (storeTop s v).host = s.host := rfl
@[simp] theorem storeTop_reply (v : Word) : (storeTop s v).reply = s.reply := rfl

/-! ### writeOp -/

@[simp] theorem writeOp_cfg (loc : Loc) (w : Width) (v : Word) : (writeOp s loc w v).cfg = s.cfg := by
  cases loc <;> cases w <;> rfl
@[simp] theorem writeOp_phase (loc : Loc) (w : Width) (v : Word) : (writeOp s loc w v).phase = s.phase := by
  cases loc <;> cases w <;> rfl
@[simp] theorem writeOp_f (loc : Loc) (w : Width) (v : Word) : (writeOp s loc w v).f = s.f := by
  cases loc <;> cases w <;> rfl
@[simp] theorem writeOp_ip (loc : Loc) (w : Width) (v : Word) : (writeOp s loc w v).ip = s.ip := by
  cases loc <;> cases w <;> rfl
@[simp] theorem writeOp_budget (loc : Loc) (w : Width) (v : Word) : (writeOp s loc w v).budget = s.budget := by
  cases loc <;> cases w <;> rfl
@[simp] theorem writeOp_declined (loc : Loc) (w : Width) (v : Word) : (writeOp s loc w v).declined = s.declined := by
  cases loc <;> cases w <;> rfl
@[simp] theorem writeOp_programs (loc : Loc) (w : Width) (v : Word) : (writeOp s loc w v).programs = s.programs := by
  cases loc <;> cases w <;> rfl
@[simp] theorem writeOp_cur (loc : Loc) (w : Width) (v : Word) : (writeOp s loc w v).cur = s.cur := by
  cases loc <;> cases w <;> rfl
@[simp] theorem writeOp_reader (loc : Loc) (w : Width) (v : Word) : (writeOp s loc w v).reader = s.reader := by
  cases loc <;> cases w <;> rfl
@[simp] theorem writeOp_host (loc : Loc) (w : Width) (v : Word) : (writeOp s loc w v).host = s.host := by
  cases loc <;> cases w <;> rfl
@[simp] theorem writeOp_reply (loc : Loc) (w : Width) (v : Word) : (writeOp s loc w v).reply = s.reply := by
  cases loc <;> cases w <;> rfl

/-! ### Register reads after an update of something else -/

@[simp] theorem State.setF_reg (v : Word) (q : Reg) : (s.setF v).reg q = s.reg q := rfl
@[simp] theorem State.setIp_reg (i : Nat) (q : Reg) : (s.setIp i).reg q = s.reg q := rfl
@[simp] theorem State.setBudget_reg (b : Int) (q : Reg) : (s.setBudget b).reg q = s.reg q := rfl
@[simp] theorem State.setMem_reg (m : Memory) (q : Reg) : (s.setMem m).reg q = s.reg q := rfl
@[simp] theorem State.setPhase_reg (p : Phase) (q : Reg) : (s.setPhase p).reg q = s.reg q := rfl
@[simp] theorem State.setDeclined_reg (b : Bool) (q : Reg) : (s.setDeclined b).reg q = s.reg q := rfl
@[simp] theorem State.setPrograms_reg (ps : List Program) (q : Reg) : (s.setPrograms ps).reg q = s.reg q := rfl
@[simp] theorem State.setReply_reg (r : Reply) (q : Reg) : (s.setReply r).reg q = s.reg q := rfl
@[simp] theorem State.setHost_reg (h : List HostRequest) (q : Reg) : (s.setHost h).reg q = s.reg q := rfl
@[simp] theorem advance_reg (q : Reg) : (advance s).reg q = s.reg q := rfl
@[simp] theorem finish_reg (o : ExecOutcome) (q : Reg) : (finish s o).reg q = s.reg q := rfl
@[simp] theorem storeTop_reg (v : Word) (q : Reg) : (storeTop s v).reg q = s.reg q := rfl

/-! ### The Program being executed depends on `programs` and `cur` alone -/

theorem program_congr {s t : State} (hp : t.programs = s.programs) (hc : t.cur = s.cur) : t.program = s.program := by
  simp [State.program, hp, hc]

theorem cmdCount_congr {s t : State} (hp : t.programs = s.programs) (hc : t.cur = s.cur) : t.cmdCount = s.cmdCount := by
  simp [State.cmdCount, program_congr hp hc]

end

end Sys2Proof.Machine
end

