-- ==== Sys2Proof/Laws/Ops.lean ====
section
/-! SUPPORT. What each shared operation over registers and memory does, said once. -/

namespace Sys2Proof.Machine

/-! ## Registers -/

theorem Regs.get_set (rs : Regs) (r q : Reg) (v : Word) : (rs.set r v).get q = if q = r then v else rs.get q := by
  cases r <;> cases q <;> rfl

theorem Regs.ext_get {a b : Regs} (h : ∀ q, a.get q = b.get q) : a = b := by
  cases a; cases b
  have h0 := h .r0; have h1 := h .r1; have h2 := h .r2; have h3 := h .r3
  have h4 := h .r4; have h5 := h .r5; have h6 := h .r6; have h7 := h .r7
  simp only [Regs.get] at h0 h1 h2 h3 h4 h5 h6 h7
  simp [*]

theorem State.reg_setReg (s : State) (r q : Reg) (v : Word) : (s.setReg r v).reg q = if q = r then v else s.reg q :=
  Regs.get_set s.regs r q v

theorem decSp_reg (s : State) (q : Reg) : (decSp s).reg q = if q = .r7 then s.reg .r7 - 4#32 else s.reg q :=
  s.reg_setReg .r7 q _

theorem incSp_reg (s : State) (q : Reg) : (incSp s).reg q = if q = .r7 then s.reg .r7 + 4#32 else s.reg q :=
  s.reg_setReg .r7 q _

/-! ## Bytes of memory: the laws hold of every memory, canonical or not -/

theorem readByte_eraseCell (m : Memory) (a a' : Nat) :
    readByte (eraseCell m a) a' = if a' = a then unlistedByte else readByte m a' := by
  induction m with
  | nil => simp [eraseCell, readByte]
  | cons c m ih =>
    obtain ⟨k, b⟩ := c
    by_cases hk : k = a <;> by_cases ha : a' = a <;> by_cases hka : k = a' <;>
      simp_all [eraseCell, readByte]

theorem readByte_insertCell (m : Memory) (a a' : Nat) (b : Byte) (h : ∀ c ∈ m, c.1 ≠ a) :
    readByte (insertCell m a b) a' = if a' = a then b else readByte m a' := by
  induction m with
  | nil => simp [insertCell, readByte, eq_comm]
  | cons c m ih =>
    obtain ⟨k, x⟩ := c
    have hk : k ≠ a := h (k, x) (by simp)
    have ih := ih fun c hc => h c (by simp [hc])
    by_cases hlt : a < k
    · by_cases ha : a' = a
      · simp [insertCell, readByte, hlt, ha]
      · simp [insertCell, readByte, hlt, ha, Ne.symm ha]
    · by_cases hka : k = a'
      · subst hka; simp [insertCell, readByte, hlt, hk]
      · simp [insertCell, readByte, hlt, hka, ih]

theorem eraseCell_no_key (m : Memory) (a : Nat) : ∀ c ∈ eraseCell m a, c.1 ≠ a := by
  induction m with
  | nil => simp [eraseCell]
  | cons c m ih =>
    obtain ⟨k, b⟩ := c
    by_cases hk : k = a
    · simpa [eraseCell, hk] using ih
    · simpa [eraseCell, hk] using ih

/-- Read after write: the byte written, and every other byte as before (20_memory.md R74). -/
theorem readByte_writeByte (m : Memory) (a a' : Nat) (b : Byte) :
    readByte (writeByte m a b) a' = if a' = a then b else readByte m a' := by
  unfold writeByte
  split
  · next h => simp [readByte_eraseCell, h]
  · rw [readByte_insertCell _ _ _ _ (eraseCell_no_key m a), readByte_eraseCell]
    split <;> simp_all

/-- A byte write stores the low byte and changes no other byte (20_memory.md R74). -/
theorem memWrite8_stored (m : Memory) (a : Nat) (v : Word) : StoredAt m (memWrite8 m a v) a .byte v := by
  intro b
  simp only [memWrite8, readByte_writeByte, byteOf]
  by_cases h : b = a
  · subst h; simp [Width.bytes]
  · rw [if_neg h, if_neg (by simp only [Width.bytes]; omega)]

/-- A dword write stores the four bytes, the lowest first, and changes no other byte (20_memory.md R74). -/
theorem memWrite32_stored (m : Memory) (a : Nat) (v : Word) : StoredAt m (memWrite32 m a v) a .dword v := by
  intro b
  simp only [memWrite32, readByte_writeByte, byteOf]
  by_cases h3 : b = a + 3
  · subst h3; simp [Width.bytes]
  by_cases h2 : b = a + 2
  · subst h2; simp [Width.bytes]
  by_cases h1 : b = a + 1
  · subst h1; simp [Width.bytes]
  by_cases h0 : b = a
  · subst h0; simp [Width.bytes]
  rw [if_neg h3, if_neg h2, if_neg h1, if_neg h0, if_neg (by simp only [Width.bytes]; omega)]

/-- A dword read depends on its four bytes alone (20_memory.md R72). -/
theorem memRead32_congr {m m' : Memory} {a a' : Nat}
    (h : ∀ i, i < 4 → readByte m (a + i) = readByte m' (a' + i)) : memRead32 m a = memRead32 m' a' := by
  have h0 := h 0 (by omega); have h1 := h 1 (by omega); have h2 := h 2 (by omega); have h3 := h 3 (by omega)
  simp only [Nat.add_zero] at h0
  simp [memRead32, memRead8, h0, h1, h2, h3]

/-- Little-endian: the value of a dword read (20_memory.md R72). -/
theorem memRead32_toNat (m : Memory) (a : Nat) : (memRead32 m a).toNat = (readByte m a).toNat +
    256 * (readByte m (a + 1)).toNat + 65536 * (readByte m (a + 2)).toNat +
    16777216 * (readByte m (a + 3)).toNat := by
  have e : memRead32 m a =
      (readByte m (a + 3) ++ (readByte m (a + 2) ++ (readByte m (a + 1) ++ readByte m a)) : BitVec 32) := by
    unfold memRead32 memRead8
    apply BitVec.eq_of_getLsbD_eq
    intro i hi
    simp only [BitVec.getLsbD_or, BitVec.getLsbD_shiftLeft, BitVec.getLsbD_setWidth, BitVec.getLsbD_append]
    have hb (x : Byte) (j : Nat) (h : 8 ≤ j) : x.getLsbD j = false := BitVec.getLsbD_of_ge x j h
    by_cases h1 : i < 8
    · simp [h1, hi, show i < 16 by omega, show i < 24 by omega]
    · by_cases h2 : i < 16
      · simp [h1, h2, hi, hb _ i (by omega), show i < 24 by omega, show i - 8 < 8 by omega, show i - 8 < 32 by omega]
      · by_cases h3 : i < 24
        · simp [h1, h2, h3, hi, hb _ i (by omega), hb _ (i - 8) (by omega), show i - 16 < 32 by omega]
        · simp [h1, h2, h3, hi, hb _ i (by omega), hb _ (i - 8) (by omega), hb _ (i - 16) (by omega),
            show i - 24 < 32 by omega]
  have e' := congrArg BitVec.toNat e
  simp only [BitVec.toNat_append] at e'
  rw [e', Nat.shiftLeft_eq, Nat.shiftLeft_eq, Nat.shiftLeft_eq]
  have b0 := (readByte m a).isLt; have b1 := (readByte m (a + 1)).isLt
  have b2 := (readByte m (a + 2)).isLt; have b3 := (readByte m (a + 3)).isLt
  rw [Nat.mul_comm _ (2 ^ 8), ← Nat.two_pow_add_eq_or_of_lt b0,
    Nat.mul_comm _ (2 ^ (8 + 8)), ← Nat.two_pow_add_eq_or_of_lt (by omega),
    Nat.mul_comm _ (2 ^ (8 + (8 + 8))), ← Nat.two_pow_add_eq_or_of_lt (by omega)]
  omega

/-- The dword just stored is read back (20_memory.md R75, R87). -/
theorem memRead32_of_stored {m m' : Memory} {a : Nat} {v : Word} (h : StoredAt m m' a .dword v) :
    memRead32 m' a = v := by
  apply BitVec.eq_of_toNat_eq
  rw [memRead32_toNat]
  have r (i : Nat) (hi : i < 4) : readByte m' (a + i) = v.extractLsb' (8 * i) 8 := by
    rw [h (a + i), if_pos ⟨by omega, by simp only [Width.bytes]; omega⟩]; congr 2; omega
  have r0 := r 0 (by omega)
  simp only [Nat.add_zero] at r0
  rw [r0, r 1 (by omega), r 2 (by omega), r 3 (by omega)]
  simp only [BitVec.extractLsb'_toNat, Nat.shiftRight_eq_div_pow]
  have := v.isLt
  omega

/-- A dword elsewhere reads as before a store. -/
theorem memRead32_of_stored_ne {m m' : Memory} {a b : Nat} {w : Width} {v : Word} (h : StoredAt m m' a w v)
    (hd : b + 4 ≤ a ∨ a + w.bytes ≤ b) : memRead32 m' b = memRead32 m b := by
  apply memRead32_congr
  intro i hi
  rw [h (b + i), if_neg (by omega)]

/-! ## Address formation -/

/-- A formed address is the value mod 2^18 (20_memory.md R71). -/
theorem maskAddr_eq (x : Word) : maskAddr x = x.toNat % 2 ^ 18 := by
  unfold maskAddr memMask
  rw [BitVec.toNat_and, show (0x3FFFF#32).toNat = 2 ^ 18 - 1 from rfl, Nat.and_two_pow_sub_one_eq_mod]

/-- A formed address is below MEMSIZE (20_memory.md R71). -/
theorem maskAddr_lt (x : Word) : maskAddr x < memSize := by
  rw [maskAddr_eq]; exact Nat.mod_lt _ (by decide)

/-- The address of a resolved operand is below MEMSIZE (20_memory.md R71, R79). -/
theorem resolve_addr_lt {rs : Regs} {op : Operand} {a : Nat} (h : resolve rs op = .addr a) : a < memSize := by
  cases op <;> simp only [resolve, Loc.addr.injEq, reduceCtorEq] at h <;> rw [← h] <;> exact maskAddr_lt _

/-! ## Operand writes -/

theorem mergeReg_eq_writtenReg (brw : ByteRegWrite) (w : Width) (old v : Word) :
    mergeReg brw w old v = writtenReg brw w old v := by
  cases w
  · cases brw
    · simp only [mergeReg, writtenReg]
      apply BitVec.eq_of_getLsbD_eq
      intro i hi
      simp only [BitVec.getLsbD_or, BitVec.getLsbD_and, BitVec.getLsbD_append, BitVec.getLsbD_extractLsb']
      by_cases h8 : i < 8
      · interval_cases i <;> simp
      · interval_cases i <;> simp at h8 ⊢
    · simp only [mergeReg, writtenReg]
      apply BitVec.eq_of_getLsbD_eq
      intro i hi
      simp only [BitVec.getLsbD_and, BitVec.getLsbD_setWidth, BitVec.getLsbD_extractLsb']
      interval_cases i <;> simp
  · cases brw <;> rfl

/-- `WriteOp` writes the destination and nothing else (20_memory.md R81). -/
theorem writeOp_written (s : State) (loc : Loc) (w : Width) (v : Word) : WrittenAt s (writeOp s loc w v) loc w v := by
  cases loc with
  | reg r =>
    refine ⟨fun q => ?_, fun a => rfl⟩
    simp only [writeOp, State.reg_setReg, mergeReg_eq_writtenReg]
  | imm _ => exact ⟨fun _ => rfl, fun _ => rfl⟩
  | addr a =>
    cases w
    · exact ⟨fun _ => rfl, memWrite8_stored s.mem a v⟩
    · exact ⟨fun _ => rfl, memWrite32_stored s.mem a v⟩

/-- A write is the same write in any state with the same registers and memory after it. -/
theorem WrittenAt.congr {s t u : State} {loc : Loc} {w : Width} {v : Word} (h : WrittenAt s t loc w v)
    (hr : u.regs = t.regs) (hm : u.mem = t.mem) : WrittenAt s u loc w v := by
  have hq (q : Reg) : u.reg q = t.reg q := by simp [State.reg, hr]
  cases loc <;> simp only [WrittenAt, SameRegs, SameBytes, hq, hm] at h ⊢ <;> exact h

/-! ## setIP -/

/-- Everything `setIP` can do (43_control.md R300). -/
theorem setIP_state (s : State) (t : Word) : Transferred s (setIP s t).state t := by
  unfold Transferred setIP
  by_cases h : s.cmdCount ≤ t.toNat
  · simp only [if_pos h]; rfl
  · rw [if_neg h, if_neg h]
    by_cases hb : s.budget - 1 ≤ 0
    · rw [if_pos hb, if_pos (show (s.setBudget (s.budget - 1)).budget ≤ 0 from hb)]; rfl
    · rw [if_neg hb, if_neg (show ¬ (s.setBudget (s.budget - 1)).budget ≤ 0 from hb)]; rfl

end Sys2Proof.Machine
end

