-- ==== Sys2Proof/Laws/Prepare.lean ====
section
/-! SUPPORT. What the decoder's readers leave of the buffer, what the optimizer makes of each instruction, and what
the wrapper's block reads and writes do. -/

namespace Sys2Proof.Machine

/-! ## Decoding never changes the buffer (30_encoding.md R102) -/

@[simp] theorem advance_buf (r : BitReader) (n : Nat) : (r.advance n).buf = r.buf := rfl

@[simp] theorem advance_pos (r : BitReader) (n : Nat) : (r.advance n).pos = r.pos + n := rfl

theorem readVLQ_buf (r : BitReader) : (readVLQ r).2.buf = r.buf := by
  unfold readVLQ
  dsimp only
  split_ifs <;> rfl

theorem decodeOperand_buf (bi : ByteImm) (bm : Bool) (r : BitReader) : (decodeOperand bi bm r).2.buf = r.buf := by
  unfold decodeOperand
  dsimp only
  split_ifs <;> simp [readVLQ_buf]

theorem decodeOpcode_buf (r : BitReader) : (decodeOpcode r).2.buf = r.buf := by
  unfold decodeOpcode
  dsimp only
  split_ifs <;> rfl

theorem decodeByteMode_buf (info : OpInfo) (r : BitReader) : (decodeByteMode info r).2.buf = r.buf := by
  unfold decodeByteMode
  split_ifs <;> rfl

theorem decodeInstr_buf (bi : ByteImm) (k : Nat) (r : BitReader) : (decodeInstr bi k r).2.buf = r.buf := by
  unfold decodeInstr
  dsimp only
  split <;> simp [decodeOperand_buf, decodeByteMode_buf, decodeOpcode_buf]

theorem decodeLoop_buf (bi : ByteImm) (limit : Nat) : ∀ (fuel k : Nat) (r : BitReader),
    (decodeLoop bi fuel limit k r).2.buf = r.buf
  | 0, _, _ => rfl
  | fuel + 1, k, r => by
    unfold decodeLoop
    split
    · simp [decodeLoop_buf bi limit fuel, decodeInstr_buf]
    · rfl

theorem readStatic_buf (limit : Nat) : ∀ (fuel n : Nat) (r : BitReader), (readStatic fuel limit n r).2.buf = r.buf
  | 0, _, _ => rfl
  | fuel + 1, n, r => by
    unfold readStatic
    split
    · simp [readStatic_buf limit fuel]
    · rfl

theorem readStaticBlock_buf (fuel limit : Nat) (r : BitReader) : (readStaticBlock fuel limit r).2.buf = r.buf := by
  unfold readStaticBlock
  dsimp only
  split_ifs <;> simp [readStatic_buf, readVLQ_buf]

/-- The reader that `prepare` leaves holds the bytecode (30_encoding.md R100). -/
theorem prepareCode_buf (cfg : Config) (code : List Byte) : (prepareCode cfg code).reader.buf = code := by
  unfold prepareCode
  dsimp only
  split
  · split <;> simp [readStaticBlock_buf, decodeLoop_buf]
  · rfl

/-! ## Decoding in order (30_encoding.md R130, R135) -/

@[simp] theorem readerAt_zero (bi : ByteImm) (r : BitReader) : readerAt bi r 0 = r := rfl

@[simp] theorem readerAt_succ (bi : ByteImm) (r : BitReader) (k : Nat) :
    readerAt bi r (k + 1) = (decodeInstr bi k (readerAt bi r k)).2 := rfl

theorem readerAt_buf (bi : ByteImm) (r : BitReader) (k : Nat) : (readerAt bi r k).buf = r.buf := by
  induction k with
  | zero => rfl
  | succ k ih => simp [decodeInstr_buf, ih]

@[simp] theorem decodedFrom_length (bi : ByteImm) (r : BitReader) (n : Nat) : (decodedFrom bi r n).length = n := by
  simp [decodedFrom]

theorem decodedFrom_getElem? (bi : ByteImm) (r : BitReader) {n k : Nat} (h : k < n) :
    (decodedFrom bi r n)[k]? = some (decodeInstr bi k (readerAt bi r k)).1 := by
  simp [decodedFrom, h]

/-! ## The optimizer (30_encoding.md R145, R146) -/

@[simp] theorem optimize_length (is : List Instr) : (optimize is).length = is.length := by
  induction is <;> simp [optimize, *]

/-- Instruction `n` of an optimized list: the specialised instruction, by the scan of the later ones. -/
theorem optimize_getElem? (is : List Instr) (n : Nat) :
    (optimize is)[n]? = is[n]?.map (specialise (flagsRequired (is.drop (n + 1)))) := by
  induction is generalizing n with
  | nil => simp [optimize]
  | cons i is ih => cases n with
    | zero => simp [optimize]
    | succ n => simp [optimize, ih]

/-- The scan, unrolled once (30_encoding.md R146). -/
theorem flagsRequired_cons (i : Instr) (is : List Instr) :
    flagsRequired (i :: is) = (needsFlags i || (!changesFlags i && flagsRequired is)) := by
  rw [flagsRequired]
  cases needsFlags i <;> cases changesFlags i <;> simp

/-! ## Block reads and writes (70_reset_and_hazards.md R430, R434) -/

@[simp] theorem readBytes_length (m : Memory) (n a : Nat) : (readBytes m a n).length = n := by
  induction n generalizing a <;> simp [readBytes, *]

theorem readBytes_getElem? (m : Memory) (n : Nat) : ∀ (a j : Nat), j < n →
    (readBytes m a n)[j]? = some (readByte m (a + j)) := by
  induction n with
  | zero => intro a j h; omega
  | succ n ih =>
    intro a j h
    cases j with
    | zero => rfl
    | succ j =>
      simp only [readBytes, List.getElem?_cons_succ]
      rw [ih _ _ (by omega)]
      congr 2
      omega

/-- Bytes written one after the other: the written range holds them, and every other byte reads as before. -/
theorem readByte_writeBytes (bs : List Byte) : ∀ (m : Memory) (a x : Nat),
    readByte (writeBytes m a bs) x = if h : a ≤ x ∧ x - a < bs.length then bs[x - a] else readByte m x := by
  induction bs with
  | nil => intro m a x; simp [writeBytes]
  | cons b bs ih =>
    intro m a x
    simp only [writeBytes, ih, readByte_writeByte]
    by_cases h1 : a + 1 ≤ x ∧ x - (a + 1) < bs.length
    · rw [dif_pos h1, dif_pos (by simp; omega), List.getElem_cons, dif_neg (by omega)]
      congr 1
    · rw [dif_neg h1]
      by_cases hx : x = a
      · subst hx; simp
      · rw [if_neg hx, dif_neg (by simp; omega)]

/-- The stack's store: its four bytes at the masked R7 and no other (44_stack.md R330). -/
theorem storeTop_stored (s : State) (v : Word) :
    StoredAt s.mem (storeTop s v).mem (maskAddr (s.reg .r7)) .dword v := memWrite32_stored s.mem _ v

/-! ## The step -/

/-- Everything a completed step can be: the host's port while idle, one instruction, or the wrapper's end. -/
theorem step_cases {s t : State} (h : step s = .next t) :
    (s.phase = .idle ∧ hostStep s = .next t) ∨
    (s.phase = .running ∧ ∃ i, s.program.cmd[s.ip]? = some i ∧ exec i s = .next t) ∨
    ∃ o, s.phase = .ended o ∧ t = executeEnd s o := by
  unfold step at h
  split at h
  · exact .inl ⟨‹_›, h⟩
  · split at h
    · exact .inr (.inl ⟨‹_›, _, ‹_›, h⟩)
    · cases h
  · cases h
    exact .inr (.inr ⟨_, ‹_›, rfl⟩)

end Sys2Proof.Machine
end

