-- ==== Sys2Proof/Laws/Host.lean ====
section
/-! SUPPORT. What the host's port does with a request, said once (70_reset_and_hazards.md R437). -/

namespace Sys2Proof.Machine

/-- An idle instance's step serves the host's first request and takes it off the list. -/
theorem step_idle {s : State} {q : HostRequest} {rest : List HostRequest} (hp : s.phase = .idle)
    (hh : s.host = q :: rest) : step s = serve (s.setHost rest) q := by
  unfold step
  rw [hp]
  simp only [hostStep, hh]

/-- A set-up of a Program that exists changes it and answers `done`. -/
theorem hostSetProgram_of_lt {s : State} {p : Nat} (h : p < s.programs.length) (change : Program → Program) :
    hostSetProgram s p change = .next ((s.setPrograms (s.programs.modify p change)).setReply .done) := if_pos h

/-- A set-up of a Program that does not exist is refused by name. -/
theorem hostSetProgram_of_le {s : State} {p : Nat} (h : s.programs.length ≤ p) (change : Program → Program) :
    hostSetProgram s p change = .refused (.noSuchProgram p) := if_neg (Nat.not_lt.2 h)

/-- A write inside the 0x40004 bytes of memory. -/
theorem hostWriteMem_of_le {s : State} {a : Nat} {data : List Byte} (h : a + data.length ≤ memBytes) :
    hostWriteMem s a data = .next ((s.setMem (writeBytes s.mem a data)).setReply .done) := if_pos h

/-- A write past the 0x40004 bytes of memory is refused by name. -/
theorem hostWriteMem_of_lt {s : State} {a : Nat} {data : List Byte} (h : memBytes < a + data.length) :
    hostWriteMem s a data = .refused (.writeOutsideMemory a) := if_neg (Nat.not_le.2 h)

/-- The start of an execute of a Program that exists. -/
theorem hostExecute_of_some {s : State} {p : Nat} {g : Program} (h : s.programs[p]? = some g) :
    hostExecute s p = .next (executeStart s p g) := by
  simp only [hostExecute, h]

/-- An execute of a Program that does not exist is refused by name. -/
theorem hostExecute_of_none {s : State} {p : Nat} (h : s.programs[p]? = none) :
    hostExecute s p = .refused (.noSuchProgram p) := by
  simp only [hostExecute, h]

end Sys2Proof.Machine
end

