-- ==== Sys2Proof/Laws/Memory.lean ====
section
/-! SUPPORT. Every memory operation keeps the canonical form. -/

namespace Sys2Proof.Machine

/-- A cell that the canonical form admits. -/
abbrev GoodCell (c : Host.Cell) : Prop := c.1 < memBytes ∧ c.2 ≠ unlistedByte

theorem Memory.wf_cons (c : Host.Cell) (m : Memory) :
    Memory.wf (c :: m) = true ↔ GoodCell c ∧ (∀ d ∈ m, c.1 < d.1) ∧ Memory.wf m = true := by
  obtain ⟨k, b⟩ := c
  simp [Memory.wf, GoodCell, and_assoc]

theorem mem_eraseCell {m : Memory} {a : Nat} {c : Host.Cell} (h : c ∈ eraseCell m a) : c ∈ m := by
  induction m with
  | nil => simp [eraseCell] at h
  | cons d m ih =>
    obtain ⟨k, b⟩ := d
    by_cases hk : k = a
    · simp only [eraseCell, if_pos hk] at h
      exact List.mem_cons_of_mem _ (ih h)
    · simp only [eraseCell, if_neg hk, List.mem_cons] at h
      rcases h with h | h
      · simp [h]
      · exact List.mem_cons_of_mem _ (ih h)

theorem eraseCell_wf {m : Memory} (h : Memory.wf m = true) (a : Nat) : Memory.wf (eraseCell m a) = true := by
  induction m with
  | nil => rfl
  | cons d m ih =>
    obtain ⟨k, b⟩ := d
    obtain ⟨hg, hs, hm⟩ := (Memory.wf_cons _ _).mp h
    by_cases hk : k = a
    · simpa [eraseCell, hk] using ih hm
    · simp only [eraseCell, if_neg hk]
      exact (Memory.wf_cons _ _).mpr ⟨hg, fun d hd => hs d (mem_eraseCell hd), ih hm⟩

theorem mem_insertCell {m : Memory} {a : Nat} {b : Byte} {c : Host.Cell} (h : c ∈ insertCell m a b) :
    c = (a, b) ∨ c ∈ m := by
  induction m with
  | nil => simpa [insertCell] using h
  | cons d m ih =>
    obtain ⟨k, x⟩ := d
    by_cases hlt : a < k
    · simpa [insertCell, hlt] using h
    · simp only [insertCell, if_neg hlt, List.mem_cons] at h
      rcases h with h | h
      · simp [h]
      · rcases ih h with h | h <;> simp [h]

theorem insertCell_wf {m : Memory} (h : Memory.wf m = true) {a : Nat} {b : Byte} (hc : GoodCell (a, b))
    (hn : ∀ c ∈ m, c.1 ≠ a) : Memory.wf (insertCell m a b) = true := by
  induction m with
  | nil => exact (Memory.wf_cons _ _).mpr ⟨hc, by simp, rfl⟩
  | cons d m ih =>
    obtain ⟨k, x⟩ := d
    obtain ⟨hg, hs, hm⟩ := (Memory.wf_cons _ _).mp h
    have hka : k ≠ a := hn (k, x) (by simp)
    by_cases hlt : a < k
    · simp only [insertCell, if_pos hlt]
      refine (Memory.wf_cons _ _).mpr ⟨hc, ?_, h⟩
      intro d hd
      rcases List.mem_cons.mp hd with rfl | hd
      · exact hlt
      · exact lt_trans hlt (hs d hd)
    · simp only [insertCell, if_neg hlt]
      refine (Memory.wf_cons _ _).mpr ⟨hg, ?_, ih hm fun c hc => hn c (by simp [hc])⟩
      intro d hd
      rcases mem_insertCell hd with rfl | hd
      · exact lt_of_le_of_ne (not_lt.mp hlt) hka
      · exact hs d hd

theorem writeByte_wf {m : Memory} (h : Memory.wf m = true) {a : Nat} (ha : a < memBytes) (b : Byte) :
    Memory.wf (writeByte m a b) = true := by
  unfold writeByte
  split
  · exact eraseCell_wf h a
  · next hb => exact insertCell_wf (eraseCell_wf h a) ⟨ha, hb⟩ (eraseCell_no_key m a)

theorem writeBytes_wf (bs : List Byte) : ∀ {m : Memory} {a : Nat}, Memory.wf m = true → a + bs.length ≤ memBytes →
    Memory.wf (writeBytes m a bs) = true := by
  induction bs with
  | nil => intro m a h _; exact h
  | cons b bs ih =>
    intro m a h ha
    simp only [List.length_cons] at ha
    exact ih (writeByte_wf h (by omega) b) (by omega)

theorem memWrite8_wf {m : Memory} (h : Memory.wf m = true) {a : Nat} (ha : a < memSize) (v : Word) :
    Memory.wf (memWrite8 m a v) = true :=
  writeByte_wf h (by unfold memBytes; omega) _

theorem memWrite32_wf {m : Memory} (h : Memory.wf m = true) {a : Nat} (ha : a < memSize) (v : Word) :
    Memory.wf (memWrite32 m a v) = true := by
  have hb (i : Nat) (hi : i < 4) : a + i < memBytes := by simp only [memBytes, guardBytes]; omega
  exact writeByte_wf (writeByte_wf (writeByte_wf (writeByte_wf h (hb 0 (by omega)) _) (hb 1 (by omega)) _)
    (hb 2 (by omega)) _) (hb 3 (by omega)) _

theorem pushWords_wf (vs : List Word) : ∀ {m : Memory} {sp : Word}, Memory.wf m = true →
    Memory.wf (pushWords m sp vs) = true := by
  induction vs with
  | nil => intro m sp h; exact h
  | cons v vs ih => intro m sp h; exact ih (memWrite32_wf h (maskAddr_lt _) v)

theorem applyStores_wf (st : List (Nat × Byte)) : ∀ {m : Memory}, Memory.wf m = true →
    Memory.wf (applyStores m st) = true := by
  induction st with
  | nil => intro m h; exact h
  | cons c st ih =>
    obtain ⟨a, b⟩ := c
    intro m h
    refine ih ?_
    split
    · next ha => exact writeByte_wf h ha b
    · exact h

theorem stdFilter_wf {id : Word} {rs : Regs} {m m' : Memory} (h : Memory.wf m = true)
    (hf : stdFilter id rs m = some m') : Memory.wf m' = true := by
  unfold stdFilter at hf
  split at hf
  · simp only [Option.some.injEq] at hf
    rw [← hf]
    exact memWrite32_wf (memWrite32_wf (applyStores_wf _ h) (by decide) _) (by decide) _
  · cases hf

theorem writeOp_wf {s : State} {rs : Regs} {op : Operand} (h : Memory.wf s.mem = true) (w : Width) (v : Word) :
    Memory.wf (writeOp s (resolve rs op) w v).mem = true := by
  cases hl : resolve rs op with
  | reg r => exact h
  | imm _ => exact h
  | addr a =>
    have ha := resolve_addr_lt hl
    cases w
    · exact memWrite8_wf h ha v
    · exact memWrite32_wf h ha v

theorem storeTop_wf {s : State} (h : Memory.wf s.mem = true) (v : Word) : Memory.wf (storeTop s v).mem = true :=
  memWrite32_wf h (maskAddr_lt _) v

theorem loadSegments_wf {m : Memory} (h : Memory.wf m = true) (p : Program) :
    Memory.wf (loadSegments m p) = true := by
  unfold loadSegments
  have hg : (p.globalData.take globalMemSize).length ≤ globalMemSize := by simp
  refine writeBytes_wf _ (writeBytes_wf _ h ?_) ?_
  · simp only [memBytes, memSize, guardBytes, globalMemAddr, globalMemSize, List.length_take]
    omega
  · simp only [memBytes, memSize, guardBytes, globalMemAddr, globalMemSize, List.length_take]
    omega

end Sys2Proof.Machine
end

