-- ==== Sys2Proof/Laws/PerInstr.lean ====
section
/-! SUPPORT. Statements made for every instruction, one lemma for each constructor of `Instr`. -/

namespace Sys2Proof.Laws

/-- An encodable instruction is made again from its opcode number, byte mode and operands (30_encoding.md R121,
R135). -/
def Rebuild.Statement (i : Instr) : Prop :=
  i.encodable = true →
    Instr.ofOpcode i.opcode i.byteMode (i.operands.getD 0 (.imm 0#32)) (i.operands.getD 1 (.imm 0#32)) = i

/-- An encodable instruction has the operand count of its table row, and byte mode only if its row has the
byte-mode bit (30_encoding.md R121, R123). -/
def Shape.Statement (i : Instr) : Prop :=
  i.encodable = true →
    i.operands.length = (opInfo i.opcode).n ∧ ((opInfo i.opcode).b = false → i.byteMode = false)

/-! ## Rebuild -/

theorem Rebuild.mov (bm : Bool) (op1 op2 : Operand) : Rebuild.Statement (.mov bm op1 op2) := fun _ => rfl
theorem Rebuild.cmp (bm : Bool) (op1 op2 : Operand) : Rebuild.Statement (.cmp bm op1 op2) := fun _ => rfl
theorem Rebuild.add (bm : Bool) (op1 op2 : Operand) : Rebuild.Statement (.add bm op1 op2) := fun _ => rfl
theorem Rebuild.sub (bm : Bool) (op1 op2 : Operand) : Rebuild.Statement (.sub bm op1 op2) := fun _ => rfl
theorem Rebuild.jz (op1 : Operand) : Rebuild.Statement (.jz op1) := fun _ => rfl
theorem Rebuild.jnz (op1 : Operand) : Rebuild.Statement (.jnz op1) := fun _ => rfl
theorem Rebuild.inc (bm : Bool) (op1 : Operand) : Rebuild.Statement (.inc bm op1) := fun _ => rfl
theorem Rebuild.dec (bm : Bool) (op1 : Operand) : Rebuild.Statement (.dec bm op1) := fun _ => rfl
theorem Rebuild.jmp (op1 : Operand) : Rebuild.Statement (.jmp op1) := fun _ => rfl
theorem Rebuild.xor (bm : Bool) (op1 op2 : Operand) : Rebuild.Statement (.xor bm op1 op2) := fun _ => rfl
theorem Rebuild.and (bm : Bool) (op1 op2 : Operand) : Rebuild.Statement (.and bm op1 op2) := fun _ => rfl
theorem Rebuild.or (bm : Bool) (op1 op2 : Operand) : Rebuild.Statement (.or bm op1 op2) := fun _ => rfl
theorem Rebuild.test (bm : Bool) (op1 op2 : Operand) : Rebuild.Statement (.test bm op1 op2) := fun _ => rfl
theorem Rebuild.js (op1 : Operand) : Rebuild.Statement (.js op1) := fun _ => rfl
theorem Rebuild.jns (op1 : Operand) : Rebuild.Statement (.jns op1) := fun _ => rfl
theorem Rebuild.jb (op1 : Operand) : Rebuild.Statement (.jb op1) := fun _ => rfl
theorem Rebuild.jbe (op1 : Operand) : Rebuild.Statement (.jbe op1) := fun _ => rfl
theorem Rebuild.ja (op1 : Operand) : Rebuild.Statement (.ja op1) := fun _ => rfl
theorem Rebuild.jae (op1 : Operand) : Rebuild.Statement (.jae op1) := fun _ => rfl
theorem Rebuild.push (op1 : Operand) : Rebuild.Statement (.push op1) := fun _ => rfl
theorem Rebuild.pop (op1 : Operand) : Rebuild.Statement (.pop op1) := fun _ => rfl
theorem Rebuild.call (op1 : Operand) : Rebuild.Statement (.call op1) := fun _ => rfl
theorem Rebuild.ret : Rebuild.Statement .ret := fun _ => rfl
theorem Rebuild.not (bm : Bool) (op1 : Operand) : Rebuild.Statement (.not bm op1) := fun _ => rfl
theorem Rebuild.shl (bm : Bool) (op1 op2 : Operand) : Rebuild.Statement (.shl bm op1 op2) := fun _ => rfl
theorem Rebuild.shr (bm : Bool) (op1 op2 : Operand) : Rebuild.Statement (.shr bm op1 op2) := fun _ => rfl
theorem Rebuild.sar (bm : Bool) (op1 op2 : Operand) : Rebuild.Statement (.sar bm op1 op2) := fun _ => rfl
theorem Rebuild.neg (bm : Bool) (op1 : Operand) : Rebuild.Statement (.neg bm op1) := fun _ => rfl
theorem Rebuild.pusha : Rebuild.Statement .pusha := fun _ => rfl
theorem Rebuild.popa : Rebuild.Statement .popa := fun _ => rfl
theorem Rebuild.pushf : Rebuild.Statement .pushf := fun _ => rfl
theorem Rebuild.popf : Rebuild.Statement .popf := fun _ => rfl
theorem Rebuild.movzx (op1 op2 : Operand) : Rebuild.Statement (.movzx op1 op2) := fun _ => rfl
theorem Rebuild.movsx (op1 op2 : Operand) : Rebuild.Statement (.movsx op1 op2) := fun _ => rfl
theorem Rebuild.xchg (bm : Bool) (op1 op2 : Operand) : Rebuild.Statement (.xchg bm op1 op2) := fun _ => rfl
theorem Rebuild.mul (bm : Bool) (op1 op2 : Operand) : Rebuild.Statement (.mul bm op1 op2) := fun _ => rfl
theorem Rebuild.div (bm : Bool) (op1 op2 : Operand) : Rebuild.Statement (.div bm op1 op2) := fun _ => rfl
theorem Rebuild.adc (bm : Bool) (op1 op2 : Operand) : Rebuild.Statement (.adc bm op1 op2) := fun _ => rfl
theorem Rebuild.sbb (bm : Bool) (op1 op2 : Operand) : Rebuild.Statement (.sbb bm op1 op2) := fun _ => rfl
theorem Rebuild.print : Rebuild.Statement .print := fun _ => rfl
theorem Rebuild.movb (op1 op2 : Operand) : Rebuild.Statement (.movb op1 op2) := fun h => by simp [Instr.encodable, Instr.opcode] at h
theorem Rebuild.movd (op1 op2 : Operand) : Rebuild.Statement (.movd op1 op2) := fun h => by simp [Instr.encodable, Instr.opcode] at h
theorem Rebuild.cmpb (op1 op2 : Operand) : Rebuild.Statement (.cmpb op1 op2) := fun h => by simp [Instr.encodable, Instr.opcode] at h
theorem Rebuild.cmpd (op1 op2 : Operand) : Rebuild.Statement (.cmpd op1 op2) := fun h => by simp [Instr.encodable, Instr.opcode] at h
theorem Rebuild.addb (op1 op2 : Operand) : Rebuild.Statement (.addb op1 op2) := fun h => by simp [Instr.encodable, Instr.opcode] at h
theorem Rebuild.addd (op1 op2 : Operand) : Rebuild.Statement (.addd op1 op2) := fun h => by simp [Instr.encodable, Instr.opcode] at h
theorem Rebuild.subb (op1 op2 : Operand) : Rebuild.Statement (.subb op1 op2) := fun h => by simp [Instr.encodable, Instr.opcode] at h
theorem Rebuild.subd (op1 op2 : Operand) : Rebuild.Statement (.subd op1 op2) := fun h => by simp [Instr.encodable, Instr.opcode] at h
theorem Rebuild.incb (op1 : Operand) : Rebuild.Statement (.incb op1) := fun h => by simp [Instr.encodable, Instr.opcode] at h
theorem Rebuild.incd (op1 : Operand) : Rebuild.Statement (.incd op1) := fun h => by simp [Instr.encodable, Instr.opcode] at h
theorem Rebuild.decb (op1 : Operand) : Rebuild.Statement (.decb op1) := fun h => by simp [Instr.encodable, Instr.opcode] at h
theorem Rebuild.decd (op1 : Operand) : Rebuild.Statement (.decd op1) := fun h => by simp [Instr.encodable, Instr.opcode] at h
theorem Rebuild.negb (op1 : Operand) : Rebuild.Statement (.negb op1) := fun h => by simp [Instr.encodable, Instr.opcode] at h
theorem Rebuild.negd (op1 : Operand) : Rebuild.Statement (.negd op1) := fun h => by simp [Instr.encodable, Instr.opcode] at h
theorem Rebuild.standard (op1 : Operand) : Rebuild.Statement (.standard op1) := fun h => by simp [Instr.encodable, Instr.opcode] at h

/-! ## Shape -/

theorem Shape.mov (bm : Bool) (op1 op2 : Operand) : Shape.Statement (.mov bm op1 op2) := fun _ => ⟨rfl, fun h => by simp [opInfo, opTable, Instr.opcode, OpInfo.alu, OpInfo.plain] at h⟩
theorem Shape.cmp (bm : Bool) (op1 op2 : Operand) : Shape.Statement (.cmp bm op1 op2) := fun _ => ⟨rfl, fun h => by simp [opInfo, opTable, Instr.opcode, OpInfo.alu, OpInfo.plain] at h⟩
theorem Shape.add (bm : Bool) (op1 op2 : Operand) : Shape.Statement (.add bm op1 op2) := fun _ => ⟨rfl, fun h => by simp [opInfo, opTable, Instr.opcode, OpInfo.alu, OpInfo.plain] at h⟩
theorem Shape.sub (bm : Bool) (op1 op2 : Operand) : Shape.Statement (.sub bm op1 op2) := fun _ => ⟨rfl, fun h => by simp [opInfo, opTable, Instr.opcode, OpInfo.alu, OpInfo.plain] at h⟩
theorem Shape.jz (op1 : Operand) : Shape.Statement (.jz op1) := fun _ => ⟨rfl, fun _ => rfl⟩
theorem Shape.jnz (op1 : Operand) : Shape.Statement (.jnz op1) := fun _ => ⟨rfl, fun _ => rfl⟩
theorem Shape.inc (bm : Bool) (op1 : Operand) : Shape.Statement (.inc bm op1) := fun _ => ⟨rfl, fun h => by simp [opInfo, opTable, Instr.opcode, OpInfo.alu, OpInfo.plain] at h⟩
theorem Shape.dec (bm : Bool) (op1 : Operand) : Shape.Statement (.dec bm op1) := fun _ => ⟨rfl, fun h => by simp [opInfo, opTable, Instr.opcode, OpInfo.alu, OpInfo.plain] at h⟩
theorem Shape.jmp (op1 : Operand) : Shape.Statement (.jmp op1) := fun _ => ⟨rfl, fun _ => rfl⟩
theorem Shape.xor (bm : Bool) (op1 op2 : Operand) : Shape.Statement (.xor bm op1 op2) := fun _ => ⟨rfl, fun h => by simp [opInfo, opTable, Instr.opcode, OpInfo.alu, OpInfo.plain] at h⟩
theorem Shape.and (bm : Bool) (op1 op2 : Operand) : Shape.Statement (.and bm op1 op2) := fun _ => ⟨rfl, fun h => by simp [opInfo, opTable, Instr.opcode, OpInfo.alu, OpInfo.plain] at h⟩
theorem Shape.or (bm : Bool) (op1 op2 : Operand) : Shape.Statement (.or bm op1 op2) := fun _ => ⟨rfl, fun h => by simp [opInfo, opTable, Instr.opcode, OpInfo.alu, OpInfo.plain] at h⟩
theorem Shape.test (bm : Bool) (op1 op2 : Operand) : Shape.Statement (.test bm op1 op2) := fun _ => ⟨rfl, fun h => by simp [opInfo, opTable, Instr.opcode, OpInfo.alu, OpInfo.plain] at h⟩
theorem Shape.js (op1 : Operand) : Shape.Statement (.js op1) := fun _ => ⟨rfl, fun _ => rfl⟩
theorem Shape.jns (op1 : Operand) : Shape.Statement (.jns op1) := fun _ => ⟨rfl, fun _ => rfl⟩
theorem Shape.jb (op1 : Operand) : Shape.Statement (.jb op1) := fun _ => ⟨rfl, fun _ => rfl⟩
theorem Shape.jbe (op1 : Operand) : Shape.Statement (.jbe op1) := fun _ => ⟨rfl, fun _ => rfl⟩
theorem Shape.ja (op1 : Operand) : Shape.Statement (.ja op1) := fun _ => ⟨rfl, fun _ => rfl⟩
theorem Shape.jae (op1 : Operand) : Shape.Statement (.jae op1) := fun _ => ⟨rfl, fun _ => rfl⟩
theorem Shape.push (op1 : Operand) : Shape.Statement (.push op1) := fun _ => ⟨rfl, fun _ => rfl⟩
theorem Shape.pop (op1 : Operand) : Shape.Statement (.pop op1) := fun _ => ⟨rfl, fun _ => rfl⟩
theorem Shape.call (op1 : Operand) : Shape.Statement (.call op1) := fun _ => ⟨rfl, fun _ => rfl⟩
theorem Shape.ret : Shape.Statement .ret := fun _ => ⟨rfl, fun _ => rfl⟩
theorem Shape.not (bm : Bool) (op1 : Operand) : Shape.Statement (.not bm op1) := fun _ => ⟨rfl, fun h => by simp [opInfo, opTable, Instr.opcode, OpInfo.alu, OpInfo.plain] at h⟩
theorem Shape.shl (bm : Bool) (op1 op2 : Operand) : Shape.Statement (.shl bm op1 op2) := fun _ => ⟨rfl, fun h => by simp [opInfo, opTable, Instr.opcode, OpInfo.alu, OpInfo.plain] at h⟩
theorem Shape.shr (bm : Bool) (op1 op2 : Operand) : Shape.Statement (.shr bm op1 op2) := fun _ => ⟨rfl, fun h => by simp [opInfo, opTable, Instr.opcode, OpInfo.alu, OpInfo.plain] at h⟩
theorem Shape.sar (bm : Bool) (op1 op2 : Operand) : Shape.Statement (.sar bm op1 op2) := fun _ => ⟨rfl, fun h => by simp [opInfo, opTable, Instr.opcode, OpInfo.alu, OpInfo.plain] at h⟩
theorem Shape.neg (bm : Bool) (op1 : Operand) : Shape.Statement (.neg bm op1) := fun _ => ⟨rfl, fun h => by simp [opInfo, opTable, Instr.opcode, OpInfo.alu, OpInfo.plain] at h⟩
theorem Shape.pusha : Shape.Statement .pusha := fun _ => ⟨rfl, fun _ => rfl⟩
theorem Shape.popa : Shape.Statement .popa := fun _ => ⟨rfl, fun _ => rfl⟩
theorem Shape.pushf : Shape.Statement .pushf := fun _ => ⟨rfl, fun _ => rfl⟩
theorem Shape.popf : Shape.Statement .popf := fun _ => ⟨rfl, fun _ => rfl⟩
theorem Shape.movzx (op1 op2 : Operand) : Shape.Statement (.movzx op1 op2) := fun _ => ⟨rfl, fun _ => rfl⟩
theorem Shape.movsx (op1 op2 : Operand) : Shape.Statement (.movsx op1 op2) := fun _ => ⟨rfl, fun _ => rfl⟩
theorem Shape.xchg (bm : Bool) (op1 op2 : Operand) : Shape.Statement (.xchg bm op1 op2) := fun _ => ⟨rfl, fun h => by simp [opInfo, opTable, Instr.opcode, OpInfo.alu, OpInfo.plain] at h⟩
theorem Shape.mul (bm : Bool) (op1 op2 : Operand) : Shape.Statement (.mul bm op1 op2) := fun _ => ⟨rfl, fun h => by simp [opInfo, opTable, Instr.opcode, OpInfo.alu, OpInfo.plain] at h⟩
theorem Shape.div (bm : Bool) (op1 op2 : Operand) : Shape.Statement (.div bm op1 op2) := fun _ => ⟨rfl, fun h => by simp [opInfo, opTable, Instr.opcode, OpInfo.alu, OpInfo.plain] at h⟩
theorem Shape.adc (bm : Bool) (op1 op2 : Operand) : Shape.Statement (.adc bm op1 op2) := fun _ => ⟨rfl, fun h => by simp [opInfo, opTable, Instr.opcode, OpInfo.alu, OpInfo.plain] at h⟩
theorem Shape.sbb (bm : Bool) (op1 op2 : Operand) : Shape.Statement (.sbb bm op1 op2) := fun _ => ⟨rfl, fun h => by simp [opInfo, opTable, Instr.opcode, OpInfo.alu, OpInfo.plain] at h⟩
theorem Shape.print : Shape.Statement .print := fun _ => ⟨rfl, fun _ => rfl⟩
theorem Shape.movb (op1 op2 : Operand) : Shape.Statement (.movb op1 op2) := fun h => by simp [Instr.encodable, Instr.opcode] at h
theorem Shape.movd (op1 op2 : Operand) : Shape.Statement (.movd op1 op2) := fun h => by simp [Instr.encodable, Instr.opcode] at h
theorem Shape.cmpb (op1 op2 : Operand) : Shape.Statement (.cmpb op1 op2) := fun h => by simp [Instr.encodable, Instr.opcode] at h
theorem Shape.cmpd (op1 op2 : Operand) : Shape.Statement (.cmpd op1 op2) := fun h => by simp [Instr.encodable, Instr.opcode] at h
theorem Shape.addb (op1 op2 : Operand) : Shape.Statement (.addb op1 op2) := fun h => by simp [Instr.encodable, Instr.opcode] at h
theorem Shape.addd (op1 op2 : Operand) : Shape.Statement (.addd op1 op2) := fun h => by simp [Instr.encodable, Instr.opcode] at h
theorem Shape.subb (op1 op2 : Operand) : Shape.Statement (.subb op1 op2) := fun h => by simp [Instr.encodable, Instr.opcode] at h
theorem Shape.subd (op1 op2 : Operand) : Shape.Statement (.subd op1 op2) := fun h => by simp [Instr.encodable, Instr.opcode] at h
theorem Shape.incb (op1 : Operand) : Shape.Statement (.incb op1) := fun h => by simp [Instr.encodable, Instr.opcode] at h
theorem Shape.incd (op1 : Operand) : Shape.Statement (.incd op1) := fun h => by simp [Instr.encodable, Instr.opcode] at h
theorem Shape.decb (op1 : Operand) : Shape.Statement (.decb op1) := fun h => by simp [Instr.encodable, Instr.opcode] at h
theorem Shape.decd (op1 : Operand) : Shape.Statement (.decd op1) := fun h => by simp [Instr.encodable, Instr.opcode] at h
theorem Shape.negb (op1 : Operand) : Shape.Statement (.negb op1) := fun h => by simp [Instr.encodable, Instr.opcode] at h
theorem Shape.negd (op1 : Operand) : Shape.Statement (.negd op1) := fun h => by simp [Instr.encodable, Instr.opcode] at h
theorem Shape.standard (op1 : Operand) : Shape.Statement (.standard op1) := fun h => by simp [Instr.encodable, Instr.opcode] at h

end Sys2Proof.Laws
end

