-- ==== Sys2Proof/Laws/Shapes.lean ====
section
/-! SUPPORT. What each shape of instruction body does, said once: the state it leaves, through `WrittenAt`,
`Advanced` and `Transferred`. -/

namespace Sys2Proof.Machine

/-- `advance` after an update that kept IP, the budget and the rest. -/
theorem advance_advanced {s u : State} (hi : u.ip = s.ip) (hb : u.budget = s.budget) (hr : SameRest s u) :
    Advanced s (advance u) :=
  ⟨by simp [hi], by simp [hb], ⟨hr.cfg, hr.phase, hr.declined, hr.programs, hr.cur, hr.reader, hr.host, hr.reply⟩⟩

theorem SameRest.refl (s : State) : SameRest s s := ⟨rfl, rfl, rfl, rfl, rfl, rfl, rfl, rfl⟩

theorem SameRest.setF {s t : State} (h : SameRest s t) (v : Word) : SameRest s (t.setF v) :=
  ⟨h.cfg, h.phase, h.declined, h.programs, h.cur, h.reader, h.host, h.reply⟩

theorem SameRest.setMem {s t : State} (h : SameRest s t) (m : Memory) : SameRest s (t.setMem m) :=
  ⟨h.cfg, h.phase, h.declined, h.programs, h.cur, h.reader, h.host, h.reply⟩

theorem SameRest.setRegs {s t : State} (h : SameRest s t) (rs : Regs) : SameRest s (t.setRegs rs) :=
  ⟨h.cfg, h.phase, h.declined, h.programs, h.cur, h.reader, h.host, h.reply⟩

theorem SameRest.writeOp {s t : State} (h : SameRest s t) (loc : Loc) (w : Width) (v : Word) :
    SameRest s (writeOp t loc w v) := by
  constructor <;> simp [h.cfg, h.phase, h.declined, h.programs, h.cur, h.reader, h.host, h.reply]

theorem aluBinary_spec (w : Width) (op1 op2 : Operand) (result flags : Word → Word → Word) (s : State) :
    ∃ t, aluBinary w op1 op2 result flags s = .next t ∧ Advanced s t ∧
      WrittenAt s t (resolve s.regs op1) w (result (operandValue s op1 w) (operandValue s op2 w)) ∧
      t.f = flags (operandValue s op1 w) (operandValue s op2 w) :=
  ⟨_, rfl, advance_advanced (by simp) (by simp) (((SameRest.refl s).writeOp _ _ _).setF _),
    (writeOp_written s _ w _).congr rfl rfl, rfl⟩

theorem quietBinary_spec (w : Width) (op1 op2 : Operand) (result : Word → Word → Word) (s : State) :
    ∃ t, quietBinary w op1 op2 result s = .next t ∧ Advanced s t ∧
      WrittenAt s t (resolve s.regs op1) w (result (operandValue s op1 w) (operandValue s op2 w)) ∧ t.f = s.f :=
  ⟨_, rfl, advance_advanced (by simp) (by simp) ((SameRest.refl s).writeOp _ _ _),
    (writeOp_written s _ w _).congr rfl rfl, by simp⟩

theorem flagsOnly_spec (w : Width) (op1 op2 : Operand) (flags : Word → Word → Word) (s : State) :
    ∃ t, flagsOnly w op1 op2 flags s = .next t ∧ Advanced s t ∧ SameRegs s t ∧ SameBytes s t ∧
      t.f = flags (operandValue s op1 w) (operandValue s op2 w) :=
  ⟨_, rfl, advance_advanced rfl rfl ((SameRest.refl s).setF _), fun _ => rfl, fun _ => rfl, rfl⟩

theorem aluUnary_spec (w : Width) (op1 : Operand) (result flags : Word → Word) (s : State) :
    ∃ t, aluUnary w op1 result flags s = .next t ∧ Advanced s t ∧
      WrittenAt s t (resolve s.regs op1) w (result (operandValue s op1 w)) ∧ t.f = flags (operandValue s op1 w) :=
  ⟨_, rfl, advance_advanced (by simp) (by simp) (((SameRest.refl s).writeOp _ _ _).setF _),
    (writeOp_written s _ w _).congr rfl rfl, rfl⟩

theorem quietUnary_spec (w : Width) (op1 : Operand) (result : Word → Word) (s : State) :
    ∃ t, quietUnary w op1 result s = .next t ∧ Advanced s t ∧
      WrittenAt s t (resolve s.regs op1) w (result (operandValue s op1 w)) ∧ t.f = s.f :=
  ⟨_, rfl, advance_advanced (by simp) (by simp) ((SameRest.refl s).writeOp _ _ _),
    (writeOp_written s _ w _).congr rfl rfl, by simp⟩

theorem moveOp_spec (wr ww : Width) (op1 op2 : Operand) (f : Word → Word) (s : State) :
    ∃ t, moveOp wr ww op1 op2 f s = .next t ∧ Advanced s t ∧
      WrittenAt s t (resolve s.regs op1) ww (f (operandValue s op2 wr)) ∧ t.f = s.f :=
  ⟨_, rfl, advance_advanced (by simp) (by simp) ((SameRest.refl s).writeOp _ _ _),
    (writeOp_written s _ ww _).congr rfl rfl, by simp⟩

/-- A jump whose condition holds is a `setIP` to its operand's value (43_control.md R302). -/
theorem jumpIf_taken (op1 : Operand) (s : State) :
    ∃ t, jumpIf true op1 s = .next t ∧ Transferred s t (operandValue s op1 .dword) :=
  ⟨_, rfl, setIP_state s _⟩

/-- A jump whose condition fails only advances (43_control.md section 2). -/
theorem jumpIf_not_taken (op1 : Operand) (s : State) : jumpIf false op1 s = .next (advance s) := rfl

/-- A value read at byte width is below 256 (20_memory.md R80). -/
theorem operandValue_byte_lt (s : State) (op : Operand) : (operandValue s op .byte).toNat < 256 := by
  unfold operandValue readOp
  have h (v : Word) : (lowPart .byte v).toNat < 256 := by
    simp only [lowPart, BitVec.toNat_and]
    exact lt_of_le_of_lt Nat.and_le_right (by decide)
  cases resolve s.regs op with
  | reg r => exact h _
  | imm v => exact h _
  | addr a =>
    simp only [memRead8, BitVec.toNat_setWidth]
    have := (readByte s.mem a).isLt
    omega

end Sys2Proof.Machine
end

