-- ==== Sys2Proof/Tests/Slice0.lean ====
section
/-! SUPPORT. Small tests: the well-formedness checks, decoding of words written out from the spec's encoding,
one-step vectors of 95_test_vectors.md and of the rules' own examples, and a witness for the hypotheses of each
statement that has some. -/

namespace Sys2Proof.Tests

open Sys2Proof.Machine

/-! ## Helpers -/

/-- The default parameters. -/
def dflt : Config := Config.default

/-- The defaults with FLAG_FORMULA = idiomatic. -/
def idio : Config := { Config.default with flagFormula := .idiomatic }

/-- The defaults with BYTE_REG_WRITE = zext. -/
def zext : Config := { Config.default with byteRegWrite := .zext }

/-- A running instance of a two-instruction Program: PRINT and the terminal RET. -/
def at0 (c : Config) (rs : Regs) (f : Word) (m : Memory) : State :=
  { State.reset with
    cfg := c, phase := .running, regs := rs, f := f, mem := m
    programs := [{ Program.empty with cmd := [.print, .ret] }] }

/-- R0 and R1 given, R7 = 0x40000, F given, memory all zero. -/
def two (c : Config) (r0 r1 f : Word) : State := at0 c ⟨r0, r1, 0#32, 0#32, 0#32, 0#32, 0#32, 0x40000#32⟩ f []

/-- R0 and R7 given, F = 0, memory given. -/
def sp (r0 r7 : Word) (m : Memory) : State := at0 dflt ⟨r0, 0#32, 0#32, 0#32, 0#32, 0#32, 0#32, r7⟩ 0#32 m

/-- The outcome is a next state with the property. -/
def after (o : StepResult) (p : State → Bool) : Bool :=
  match o with
  | .next t => p t
  | .fault _ => false
  | .refused _ => false

/-- The outcome is a next state with these R0 and F, IP one on and one budget unit spent. -/
def gives (o : StepResult) (r0 f : Word) : Bool :=
  after o fun t => t.regs.r0 == r0 && t.f == f && t.ip == 1 && t.budget == 24999999

def R0 : Operand := .reg .r0
def R1 : Operand := .reg .r1
def R7 : Operand := .reg .r7
def imm (v : Word) : Operand := .imm v

/-! ## Well-formedness: one ill-formed term for each check -/

theorem test_wf_byte_immediate_too_wide :
    (Instr.mov true R0 (imm 256#32)).wellFormed .raw8 0 = false ∧ (Instr.mov true R0 (imm 255#32)).wellFormed .raw8 0 = true ∧
    (Instr.mov true R0 (imm 256#32)).wellFormed .vlq 0 = true ∧ (Instr.mov false R0 (imm 256#32)).wellFormed .raw8 0 = true :=
  by decide

theorem test_wf_first_operand_checked : (Instr.neg true (imm 256#32)).wellFormed .raw8 0 = false := by decide

theorem test_wf_typed_byte_immediate : (Instr.addb R0 (imm 0x100#32)).wellFormed .raw8 0 = false := by decide

theorem test_wf_unreachable_target :
    (Instr.jmp (imm 0x7FFFFF00#32)).wellFormed .raw8 0 = false ∧ (Instr.jmp (imm 0x7FFFFEFF#32)).wellFormed .raw8 0 = true ∧
    (Instr.jmp (imm 0x7FFFFF00#32)).wellFormed .raw8 0x7FFFFE81 = true := by decide

theorem test_wf_standard_needs_an_immediate : (Instr.standard R0).wellFormed .raw8 0 = false := by decide

theorem test_wf_config_buffer_too_small :
    ({ Config.default with bitbufSize := 7551 } : Config).wellFormed = false ∧ Config.default.wellFormed = true := by decide

theorem test_wf_programs :
    programWellFormed [] = false ∧ programWellFormed [.ret, .print] = false ∧
    programWellFormed [.print, .standard (imm 1#32), .ret] = false ∧
    programWellFormed [.standard (imm 1#32), .ret] = true ∧ programWellFormed [.ret] = true := by decide

/-! ## Decoding: words written out from the opcode table (30_encoding.md R120, R121) with `1 001` and `1 110` -/

theorem test_decode_moves :
    decodeTableWord 16 0x04F0 = some (.mov false (.reg .r1) (.reg .r6)) ∧
    decodeTableWord 16 0xE278 = some (.movzx (.reg .r1) (.reg .r6)) ∧
    decodeTableWord 16 0xE678 = some (.movsx (.reg .r1) (.reg .r6)) ∧
    decodeTableWord 16 0xE93C = some (.xchg false (.reg .r1) (.reg .r6)) := by decide

theorem test_decode_arithmetic :
    decodeTableWord 16 0x1CF0 = some (.cmp true (.reg .r1) (.reg .r6)) ∧
    decodeTableWord 16 0x24F0 = some (.add false (.reg .r1) (.reg .r6)) ∧
    decodeTableWord 16 0x3CF0 = some (.sub true (.reg .r1) (.reg .r6)) ∧
    decodeTableWord 16 0x6480 = some (.inc false (.reg .r1)) ∧
    decodeTableWord 16 0x7C80 = some (.dec true (.reg .r1)) ∧
    decodeTableWord 16 0xCF20 = some (.neg true (.reg .r1)) ∧
    decodeTableWord 16 0xEF3C = some (.mul true (.reg .r1) (.reg .r6)) ∧
    decodeTableWord 16 0xF13C = some (.div false (.reg .r1) (.reg .r6)) ∧
    decodeTableWord 16 0xF73C = some (.adc true (.reg .r1) (.reg .r6)) ∧
    decodeTableWord 16 0xF93C = some (.sbb false (.reg .r1) (.reg .r6)) := by decide

theorem test_decode_logic :
    decodeTableWord 16 0x873C = some (.xor true (.reg .r1) (.reg .r6)) ∧
    decodeTableWord 16 0x893C = some (.and false (.reg .r1) (.reg .r6)) ∧
    decodeTableWord 16 0x8F3C = some (.or true (.reg .r1) (.reg .r6)) ∧
    decodeTableWord 16 0x913C = some (.test false (.reg .r1) (.reg .r6)) ∧
    decodeTableWord 16 0xBF20 = some (.not true (.reg .r1)) ∧
    decodeTableWord 16 0xC13C = some (.shl false (.reg .r1) (.reg .r6)) ∧
    decodeTableWord 16 0xC73C = some (.shr true (.reg .r1) (.reg .r6)) ∧
    decodeTableWord 16 0xC93C = some (.sar false (.reg .r1) (.reg .r6)) := by decide

theorem test_decode_control :
    decodeTableWord 16 0x4900 = some (.jz (.reg .r1)) ∧
    decodeTableWord 16 0x5900 = some (.jnz (.reg .r1)) ∧
    decodeTableWord 16 0x8240 = some (.jmp (.reg .r1)) ∧
    decodeTableWord 16 0x9640 = some (.js (.reg .r1)) ∧
    decodeTableWord 16 0x9A40 = some (.jns (.reg .r1)) ∧
    decodeTableWord 16 0x9E40 = some (.jb (.reg .r1)) ∧
    decodeTableWord 16 0xA240 = some (.jbe (.reg .r1)) ∧
    decodeTableWord 16 0xA640 = some (.ja (.reg .r1)) ∧
    decodeTableWord 16 0xAA40 = some (.jae (.reg .r1)) ∧
    decodeTableWord 16 0xB640 = some (.call (.reg .r1)) ∧
    decodeTableWord 16 0xB800 = some .ret := by decide

theorem test_decode_stack :
    decodeTableWord 16 0xAE40 = some (.push (.reg .r1)) ∧
    decodeTableWord 16 0xB240 = some (.pop (.reg .r1)) ∧
    decodeTableWord 16 0xD000 = some .pusha ∧
    decodeTableWord 16 0xD400 = some .popa ∧
    decodeTableWord 16 0xD800 = some .pushf ∧
    decodeTableWord 16 0xDC00 = some .popf := by decide

theorem test_decode_system :
    decodeTableWord 16 0xFC00 = some .print := by decide

/-- No bits, no instruction; a 32-bit word's second window follows its first: `ADD R3, [R2+#0x10]`. -/
theorem test_decode_table_word_sizes :
    decodeTableWord 0 0 = none ∧ decodeTableWord 32 0x440025B2 = some (.add false (.reg .r3) (.mem .r2 0x10#32)) := by
  decide

/-- `JMP` with raw 4 at index 0 (bits `100000 00 00 0100`) and `PUSH #-1` (bits `101011 00 01 0000 11111111`). -/
theorem test_decode_operands_after_opcode :
    (decodeInstr .raw8 0 ⟨[0x80#8, 0x10#8], 0⟩).1 = .jmp (imm 4#32) ∧
    (decodeInstr .raw8 0 ⟨[0xAC#8, 0x43#8, 0xFC#8], 0⟩).1 = .push (imm 0xFFFFFFFF#32) := by decide

/-- 95_test_vectors.md section 2.1. -/
theorem test_peek16 :
    ([0, 3, 8, 12, 17, 20, 24, 40].map fun p => (BitReader.mk [0xA5#8, 0x3C#8, 0xF0#8] p).peek16) =
      [0xA53C#32, 0x29E7#32, 0x3CF0#32, 0xCF00#32, 0xE000#32, 0#32, 0#32, 0#32] := by decide

/-- 95_test_vectors.md section 2.2. -/
theorem test_vlq :
    readVLQ ⟨[0x3C#8], 0⟩ = (0xF#32, ⟨[0x3C#8], 6⟩) ∧ readVLQ ⟨[0x44#8], 0⟩ = (0x10#32, ⟨[0x44#8], 10⟩) ∧
    (readVLQ ⟨[0x42#8, 0x00#8], 0⟩).1 = 0xFFFFFF80#32 ∧ (readVLQ ⟨[0x80#8, 0x01#8, 0x40#8], 0⟩) = (5#32, ⟨[0x80#8, 0x01#8, 0x40#8], 18⟩) ∧
    (readVLQ ⟨[0xC0#8, 0#8, 0#8, 0#8, 0x40#8], 0⟩).1 = 1#32 := by decide

/-- 95_test_vectors.md section 2.3: `[R5+#0x10]`, `[#0xC000]`, `[R7+#-2]`, and the two byte-mode immediates. -/
theorem test_operands :
    (decodeOperand .raw8 false ⟨[0x6A#8, 0x88#8, 0#8], 0⟩).1 = .mem .r5 0x10#32 ∧
    (decodeOperand .raw8 true ⟨[0x7B#8, 0#8, 0#8], 0⟩).1 = .memAbs 0xC000#32 ∧
    (decodeOperand .raw8 false ⟨[0x6E#8, 0x87#8, 0xF0#8], 0⟩).1 = .mem .r7 0xFFFFFFFE#32 ∧
    (decodeOperand .raw8 true ⟨[0x11#8, 0x40#8], 0⟩).1 = imm 0x45#32 ∧
    (decodeOperand .vlq true ⟨[0x11#8, 0x40#8], 0⟩).1 = imm 0x14#32 := by decide

/-- 95_test_vectors.md table J, at index 5. -/
theorem test_jump_correction :
    ([0#32, 7#32, 8#32, 0xF#32, 0x10#32, 0x87#32, 0x88#32, 0xFF#32, 0x100#32, 0x1100#32, 0xFFFFFFFF#32, 0x80000000#32].map (correctTarget 5)) =
      [5#32, 0xC#32, 0xFFFFFFFD#32, 4#32, 0xD#32, 0x84#32, 0xFFFFFF85#32, 0xFFFFFFFC#32, 0#32, 0x1000#32, 4#32, 0x80000005#32] := by
  decide

/-! ## prepare (95_test_vectors.md sections 1.1, 2.6 and 2.7): the typed opcodes and STANDARD -/

/-- D1, D3, D5, D7. -/
theorem test_prepare :
    (prepareCode dflt [0#8]).cmd = [.ret] ∧ (prepareCode dflt [0x55#8]).cmd = [.ret] ∧
    (prepareCode dflt [0x5C#8, 0x5C#8]).cmd = [.ret, .movd (imm 0#32) (imm 0#32), .ret] ∧
    (prepareCode dflt [0xF5#8, 0x84#8, 0x22#8, 0x44#8, 0x67#8, 0x70#8]).staticData = [0x11#8, 0x22#8, 0x33#8] := by
  decide

/-- O1 to O4. -/
theorem test_optimizer_add_inc_sub_neg :
    (prepareCode dflt [0x1B#8, 0x12#8, 0x00#8, 0x49#8, 0x00#8, 0x40#8]).cmd =
      [.addd R0 (imm 1#32), .add false R0 (imm 2#32), .movd (imm 0#32) (imm 0#32), .ret] ∧
    (prepareCode dflt [0x22#8, 0x32#8, 0x10#8, 0x00#8]).cmd =
      [.inc false R0, .jz (imm 1#32), .movd (imm 0#32) (imm 0#32), .ret] ∧
    (prepareCode dflt [0xFD#8, 0x1E#8, 0x24#8, 0x15#8, 0x70#8, 0xA2#8, 0x00#8]).cmd =
      [.subb R0 R1, .movd (.reg .r2) (.reg .r3), .xor false R0 R0, .movd (imm 0#32) (imm 0#32), .ret] ∧
    (prepareCode dflt [0x6B#8, 0x66#8, 0x8D#8, 0x80#8]).cmd =
      [.neg false R0, .pushf, .movd (imm 0#32) (imm 0#32), .ret] := by decide

/-- O5 to O8. -/
theorem test_optimizer_dec_cmp_mov_popf :
    (prepareCode dflt [0x4F#8, 0x3A#8, 0x3D#8, 0x48#8, 0x00#8]).cmd =
      [.dec false R0, .adc false R1 (imm 0#32), .movd (imm 0#32) (imm 0#32), .ret] ∧
    (prepareCode dflt [0x98#8, 0x0E#8, 0x00#8, 0x50#8, 0xC8#8, 0x0E#8]).cmd =
      [.cmpb R0 (imm 5#32), .movb R1 (imm 7#32), .movd (imm 0#32) (imm 0#32), .ret] ∧
    (prepareCode dflt [0x05#8, 0x32#8, 0x37#8]).cmd = [.incd R0, .popf, .ret] ∧
    (prepareCode dflt [0x17#8, 0x32#8, 0x05#8, 0x00#8, 0x20#8]).cmd =
      [.incd R0, .cmpd R0 (imm 1#32), .movd (imm 0#32) (imm 0#32), .ret] := by decide

/-- The id-6 blob of section 1.1: 24 zero bytes and five more. -/
def deltaBlob : List Byte := List.replicate 24 0#8 ++ [0x4C#8, 0x89#8, 0x97#8, 0xF2#8, 0xA0#8]

theorem test_standard_blob : (prepareCode dflt deltaBlob).cmd = [.standard (imm 6#32), .ret] := by decide +kernel

/-! ## Data movement (95_test_vectors.md sections 3 and 4.1) -/

theorem test_mov_byte_merge_and_zext :
    gives (exec (.mov true R0 (imm 0x12#32)) (two dflt 0xAABBCCDD#32 0#32 3#32)) 0xAABBCC12#32 3#32 = true ∧
    gives (exec (.mov true R0 (imm 0x12#32)) (two zext 0xAABBCCDD#32 0#32 3#32)) 0x12#32 3#32 = true := by decide

theorem test_movb_V2 : after (exec (.movb (.memAbs 0x10#32) R1) (two dflt 0#32 0x1234#32 0#32))
    (fun t => t.mem == [(0x10, 0x34#8)]) = true := by decide

theorem test_movd_M1 : after (exec (.movd (.mem .r1 0#32) (imm 0x11223344#32)) (two dflt 0#32 0x40010#32 0#32))
    (fun t => t.mem == [(0x10, 0x44#8), (0x11, 0x33#8), (0x12, 0x22#8), (0x13, 0x11#8)]) = true := by decide

theorem test_movd_guard_M2 : after (exec (.movd (.memAbs 0x3FFFE#32) (imm 0x11223344#32)) (two dflt 0#32 0#32 0#32))
    (fun t => t.mem == [(0x3FFFE, 0x44#8), (0x3FFFF, 0x33#8), (0x40000, 0x22#8), (0x40001, 0x11#8)]) = true := by decide

theorem test_movzx_V3 : gives (exec (.movzx R0 (.memAbs 0x10#32)) (sp 0#32 0#32 [(0x10, 0x9C#8), (0x11, 0x55#8)]))
    0x9C#32 0#32 = true := by decide

theorem test_movsx_V4_V5 :
    gives (exec (.movsx R0 (.memAbs 0x10#32)) (sp 0#32 0#32 [(0x10, 0x9C#8)])) 0xFFFFFF9C#32 0#32 = true ∧
    gives (exec (.movsx R0 (imm 0x180#32)) (sp 0#32 0#32 [])) 0xFFFFFF80#32 0#32 = true := by decide

theorem test_xchg_V6 : after (exec (.xchg false (.memAbs 0#32) (.memAbs 1#32))
    (sp 0#32 0#32 [(0, 1#8), (1, 2#8), (2, 3#8), (3, 4#8), (4, 5#8)]))
    (fun t => t.mem == [(0, 2#8), (1, 1#8), (2, 2#8), (3, 3#8), (4, 4#8)]) = true := by decide

theorem test_xchg_byte_V7 : after (exec (.xchg true R0 R1) (two dflt 0x1111#32 0x2222#32 0#32))
    (fun t => t.regs.r0 == 0x1122#32 && t.regs.r1 == 0x2211#32) = true := by decide

/-! ## Arithmetic (95_test_vectors.md section 4.2) -/

theorem test_add_A1_A2 :
    gives (exec (.add false R0 (imm 1#32)) (two dflt 0xFFFFFFFF#32 0#32 0#32)) 0#32 1#32 = true ∧
    gives (exec (.add false R0 R1) (two idio 0xFFFFFFFF#32 0x80000001#32 0#32)) 0x80000000#32 0x80000001#32 = true := by
  decide

theorem test_add_byte_A5_A6 :
    gives (exec (.add true R0 (imm 1#32)) (two dflt 0x7F#32 0#32 0#32)) 0x80#32 0x80000000#32 = true ∧
    gives (exec (.add true R0 (imm 0x20#32)) (two dflt 0xF0#32 0#32 0#32)) 0x10#32 1#32 = true := by decide

theorem test_sub_A8 :
    gives (exec (.sub false R0 (imm 2#32)) (two dflt 1#32 0#32 0#32)) 0xFFFFFFFF#32 1#32 = true ∧
    gives (exec (.sub false R0 (imm 2#32)) (two idio 1#32 0#32 0#32)) 0xFFFFFFFF#32 0x80000001#32 = true := by decide

theorem test_sub_byte_A11 : gives (exec (.sub true R0 (imm 2#32)) (two idio 1#32 0#32 0#32)) 0xFF#32 0x80000001#32 = true := by
  decide

theorem test_cmp_byte_equal : gives (exec (.cmp true R0 (imm 0x41#32)) (two dflt 0x1241#32 0#32 0#32)) 0x1241#32 2#32 = true := by
  decide

theorem test_cmpd_A13_A15 :
    gives (exec (.cmpd R0 (imm 1#32)) (two dflt 0xFFFFFFFF#32 0#32 0#32)) 0xFFFFFFFF#32 0x80000000#32 = true ∧
    gives (exec (.cmpd R0 (imm 1#32)) (two idio 0#32 0#32 0#32)) 0#32 0x80000001#32 = true := by decide

theorem test_cmpb_A14 : gives (exec (.cmpb R0 (imm 1#32)) (two dflt 0xFF#32 0#32 7#32)) 0xFF#32 0#32 = true := by decide

theorem test_adc_A16_A17 :
    gives (exec (.adc false R0 (imm 0#32)) (two idio 0xFFFFFFFF#32 0#32 1#32)) 0#32 3#32 = true ∧
    gives (exec (.adc false R0 (imm 0xFFFFFFFF#32)) (two dflt 5#32 0#32 1#32)) 5#32 1#32 = true := by decide

theorem test_adc_byte_A18_A19 :
    gives (exec (.adc true R0 (imm 0#32)) (two dflt 0x7F#32 0#32 1#32)) 0x80#32 0#32 = true ∧
    gives (exec (.adc true R0 (imm 0xFF#32)) (two dflt 0x1201#32 0#32 1#32)) 0x1201#32 1#32 = true := by decide

theorem test_sbb_A20_A21 :
    gives (exec (.sbb false R0 (imm 0#32)) (two idio 0#32 0#32 1#32)) 0xFFFFFFFF#32 0x80000001#32 = true ∧
    gives (exec (.sbb true R0 (imm 0#32)) (two dflt 0#32 0#32 1#32)) 0xFF#32 1#32 = true := by decide

theorem test_inc_A23_A24 :
    gives (exec (.inc false R0) (two dflt 0x7FFFFFFF#32 0#32 0#32)) 0x80000000#32 0x80000000#32 = true ∧
    gives (exec (.inc true R0) (two dflt 0x123456FF#32 0#32 0#32)) 0x12345600#32 2#32 = true := by decide

theorem test_dec_A26_A27 :
    gives (exec (.dec true R0) (two dflt 0x100#32 0#32 0#32)) 0x1FF#32 0x80000000#32 = true ∧
    gives (exec (.dec true R0) (two dflt 0x101#32 0#32 0#32)) 0x100#32 2#32 = true := by decide

theorem test_neg_A30_A31 :
    gives (exec (.neg false R0) (two dflt 0#32 0#32 1#32)) 0#32 2#32 = true ∧
    gives (exec (.neg true R0) (two dflt 0x1201#32 0#32 0#32)) 0x12FF#32 0x80000001#32 = true := by decide

theorem test_mul_A32_A33 :
    gives (exec (.mul false R0 R0) (two dflt 0xFFFFFFFF#32 0#32 7#32)) 1#32 7#32 = true ∧
    gives (exec (.mul true R0 R1) (two dflt 0x1210#32 0x10#32 7#32)) 0x1200#32 7#32 = true := by decide

theorem test_div_A35_A40 :
    gives (exec (.div true R0 R1) (two dflt 0x12FF#32 0x310#32 7#32)) 0x120F#32 7#32 = true ∧
    gives (exec (.div false R0 (imm 0#32)) (two dflt 7#32 0#32 2#32)) 7#32 2#32 = true := by decide

theorem test_addb_addd_A41 :
    gives (exec (.addb R0 R1) (two dflt 0x12FF#32 1#32 5#32)) 0x1200#32 5#32 = true ∧
    gives (exec (.addd R0 (imm 1#32)) (two dflt 0xFFFFFFFF#32 0#32 0x80000000#32)) 0#32 0x80000000#32 = true := by decide

theorem test_subb_A42_subd :
    gives (exec (.subb R0 (imm 2#32)) (two dflt 0x1201#32 0#32 5#32)) 0x12FF#32 5#32 = true ∧
    gives (exec (.subd R0 (imm 1#32)) (two dflt 0#32 0#32 5#32)) 0xFFFFFFFF#32 5#32 = true := by decide

theorem test_incb_incd :
    gives (exec (.incb R0) (two dflt 0x12FF#32 0#32 5#32)) 0x1200#32 5#32 = true ∧
    gives (exec (.incd R0) (two dflt 9#32 0#32 5#32)) 10#32 5#32 = true := by decide

theorem test_decb_decd :
    gives (exec (.decb R0) (two dflt 0x1200#32 0#32 5#32)) 0x12FF#32 5#32 = true ∧
    gives (exec (.decd R0) (two dflt 0#32 0#32 5#32)) 0xFFFFFFFF#32 5#32 = true := by decide

theorem test_negb_negd :
    gives (exec (.negb R0) (two dflt 0x1201#32 0#32 5#32)) 0x12FF#32 5#32 = true ∧
    gives (exec (.negd R0) (two dflt 5#32 0#32 5#32)) 0xFFFFFFFB#32 5#32 = true := by decide

/-! ## Logic and shifts (95_test_vectors.md section 4.3) -/

theorem test_and_L1_L2 :
    gives (exec (.and false R0 (imm 0xF0#32)) (two dflt 0x0F#32 0#32 1#32)) 0#32 2#32 = true ∧
    gives (exec (.and false R0 R1) (two dflt 0x80000001#32 0x80000000#32 0#32)) 0x80000000#32 0x80000000#32 = true := by
  decide

theorem test_or_L3_L4 :
    gives (exec (.or false R0 (imm 0#32)) (two dflt 0#32 0#32 1#32)) 0#32 2#32 = true ∧
    gives (exec (.or true R0 (imm 0x80#32)) (two dflt 0x1200#32 0#32 1#32)) 0x1280#32 0#32 = true := by decide

theorem test_xor_L5_L6 :
    gives (exec (.xor false R0 R0) (two dflt 0x1234#32 0#32 0#32)) 0#32 2#32 = true ∧
    gives (exec (.xor true R0 (imm 0xFF#32)) (two dflt 0x1234#32 0#32 0#32)) 0x12CB#32 0#32 = true := by decide

theorem test_test_L7_L8 :
    gives (exec (.test false R0 (imm 1#32)) (two dflt 2#32 0#32 0#32)) 2#32 2#32 = true ∧
    gives (exec (.test false R0 R1) (two dflt 0x80000000#32 0xFFFFFFFF#32 0#32)) 0x80000000#32 0x80000000#32 = true := by
  decide

theorem test_not_L9_L10 :
    gives (exec (.not false R0) (two dflt 0#32 0#32 3#32)) 0xFFFFFFFF#32 3#32 = true ∧
    gives (exec (.not true R0) (two dflt 0x1234#32 0#32 3#32)) 0x12CB#32 3#32 = true := by decide

theorem test_shl_L11_L12_L14 :
    gives (exec (.shl false R0 (imm 1#32)) (two dflt 0x80000001#32 0#32 0#32)) 2#32 1#32 = true ∧
    gives (exec (.shl false R0 (imm 0#32)) (two dflt 1#32 0#32 0#32)) 1#32 1#32 = true ∧
    gives (exec (.shl false R0 (imm 32#32)) (two dflt 3#32 0#32 0#32)) 3#32 1#32 = true := by decide

theorem test_shl_byte_L16_L17 :
    gives (exec (.shl true R0 (imm 1#32)) (two dflt 0x81#32 0#32 0#32)) 2#32 0#32 = true ∧
    gives (exec (.shl true R0 (imm 24#32)) (two dflt 0x80#32 0#32 0#32)) 0#32 0x80000000#32 = true := by decide

theorem test_shr_L18_L19_L20 :
    gives (exec (.shr false R0 (imm 0#32)) (two dflt 0x80000000#32 0#32 0#32)) 0x80000000#32 0x80000001#32 = true ∧
    gives (exec (.shr false R0 (imm 1#32)) (two dflt 1#32 0#32 0#32)) 0#32 3#32 = true ∧
    gives (exec (.shr false R0 (imm 32#32)) (two dflt 2#32 0#32 0#32)) 2#32 0#32 = true := by decide

theorem test_sar_L21_L22_L24 :
    gives (exec (.sar false R0 (imm 4#32)) (two dflt 0x80000000#32 0#32 0#32)) 0xF8000000#32 0x80000000#32 = true ∧
    gives (exec (.sar false R0 (imm 1#32)) (two dflt 0x80000001#32 0#32 0#32)) 0xC0000000#32 0x80000001#32 = true ∧
    gives (exec (.sar true R0 (imm 1#32)) (two dflt 0x80#32 0#32 0#32)) 0x40#32 0#32 = true := by decide

/-! ## Control (95_test_vectors.md section 4.4) -/

/-- IP and budget after a step that goes on. -/
def goesTo (o : StepResult) (ip : Nat) : Bool :=
  after o fun t => t.phase == .running && t.ip == ip && t.budget == 24999999

/-- The step finished with IP and the budget as they were. -/
def finishes (o : StepResult) : Bool :=
  after o fun t => t.phase == .ended .finished && t.ip == 0 && t.budget == 25000000

theorem test_jmp_C1_C2_C3 :
    goesTo (exec (.jmp (imm 1#32)) (two dflt 0#32 0#32 0#32)) 1 = true ∧
    finishes (exec (.jmp (imm 2#32)) (two dflt 0#32 0#32 0#32)) = true ∧
    finishes (exec (.jmp R0) (two dflt 0xFFFFFFFF#32 0#32 0#32)) = true := by decide

theorem test_jmp_C4_C5 :
    goesTo (exec (.jmp (.memAbs 0x10#32)) (sp 0#32 0#32 [(0x10, 1#8)])) 1 = true ∧
    after (exec (.jmp (imm 0#32)) { two dflt 0#32 0#32 0#32 with budget := 1 })
      (fun t => t.phase == .ended .exhausted && t.budget == 0 && t.ip == 0) = true := by decide

/-- A jump to 0: taken if the IP stays 0, not taken if it is 1. -/
theorem test_jz_C6_C7 :
    goesTo (exec (.jz (imm 0#32)) (two dflt 0#32 0#32 2#32)) 0 = true ∧
    goesTo (exec (.jz (imm 5#32)) (two dflt 0#32 0#32 0#32)) 1 = true := by decide

theorem test_jnz_js_jns_C8 :
    goesTo (exec (.jnz (imm 0#32)) (two dflt 0#32 0#32 0x80000000#32)) 0 = true ∧
    goesTo (exec (.js (imm 0#32)) (two dflt 0#32 0#32 0x80000000#32)) 0 = true ∧
    goesTo (exec (.jns (imm 0#32)) (two dflt 0#32 0#32 0x80000000#32)) 1 = true := by decide

theorem test_jb_jae_C9 :
    goesTo (exec (.jb (imm 0#32)) (two dflt 0#32 0#32 1#32)) 0 = true ∧
    goesTo (exec (.jae (imm 0#32)) (two dflt 0#32 0#32 1#32)) 1 = true := by decide

theorem test_jbe_ja_C10 :
    goesTo (exec (.jbe (imm 0#32)) (two dflt 0#32 0#32 2#32)) 0 = true ∧
    goesTo (exec (.ja (imm 0#32)) (two dflt 0#32 0#32 2#32)) 1 = true ∧
    goesTo (exec (.jbe (imm 0#32)) (two dflt 0#32 0#32 1#32)) 0 = true ∧
    goesTo (exec (.ja (imm 0#32)) (two dflt 0#32 0#32 0x80000000#32)) 0 = true := by decide

theorem test_call_C11_C15 :
    after (exec (.call (imm 1#32)) (two dflt 0#32 0#32 0#32))
      (fun t => t.regs.r7 == 0x3FFFC#32 && t.mem == [(0x3FFFC, 1#8)] && t.ip == 1 && t.budget == 24999999) = true ∧
    after (exec (.call (imm 7#32)) (two dflt 0#32 0#32 0#32))
      (fun t => t.regs.r7 == 0x3FFFC#32 && t.mem == [(0x3FFFC, 1#8)] && t.phase == .ended .finished && t.budget == 25000000) =
      true := by decide

theorem test_ret_C12_C13 :
    finishes (exec .ret (sp 0#32 0x40000#32 [])) = true ∧
    after (exec .ret (sp 0#32 0x3FFFC#32 [(0x3FFFC, 1#8)])) (fun t => t.ip == 1 && t.regs.r7 == 0x40000#32) = true := by
  decide

theorem test_ret_C14 :
    after (exec .ret (sp 0#32 0x3FFFC#32 [(0x3FFFC, 7#8)])) (fun t => t.phase == .ended .finished && t.regs.r7 == 0x3FFFC#32) =
      true := by decide

/-! ## Stack (95_test_vectors.md section 4.5) -/

theorem test_push_K1_K2 :
    after (exec (.push (imm 0x12345678#32)) (sp 0#32 0x40000#32 [])) (fun t => t.regs.r7 == 0x3FFFC#32 &&
      t.mem == [(0x3FFFC, 0x78#8), (0x3FFFD, 0x56#8), (0x3FFFE, 0x34#8), (0x3FFFF, 0x12#8)]) = true ∧
    after (exec (.push R7) (sp 0#32 0x40000#32 []))
      (fun t => t.mem == [(0x3FFFC, 0xFC#8), (0x3FFFD, 0xFF#8), (0x3FFFE, 0x03#8)]) = true := by decide

theorem test_push_guard_K3 :
    after (exec (.push R0) (sp 0x11223344#32 2#32 [])) (fun t => t.regs.r7 == 0xFFFFFFFE#32 &&
      t.mem == [(0x3FFFE, 0x44#8), (0x3FFFF, 0x33#8), (0x40000, 0x22#8), (0x40001, 0x11#8)]) = true := by decide

theorem test_pop_K4_K5 :
    after (exec (.pop R0) (sp 0#32 0x3FFFC#32 [(0x3FFFC, 0x78#8), (0x3FFFD, 0x56#8), (0x3FFFE, 0x34#8), (0x3FFFF, 0x12#8)]))
      (fun t => t.regs.r0 == 0x12345678#32 && t.regs.r7 == 0x40000#32) = true ∧
    after (exec (.pop R7) (sp 0#32 0x100#32 [(0x100, 0x78#8), (0x101, 0x56#8), (0x102, 0x34#8), (0x103, 0x12#8)]))
      (fun t => t.regs.r7 == 0x1234567C#32) = true := by decide

/-- K6's start state. -/
def k6 : State := at0 dflt ⟨0x10#32, 0x11#32, 0x12#32, 0x13#32, 0x14#32, 0x15#32, 0x16#32, 0x40000#32⟩ 0#32 []

/-- K6's memory. -/
def k6mem : Memory := [(0x3FFE2, 0x04#8), (0x3FFE4, 0x16#8), (0x3FFE8, 0x15#8), (0x3FFEC, 0x14#8), (0x3FFF0, 0x13#8),
  (0x3FFF4, 0x12#8), (0x3FFF8, 0x11#8), (0x3FFFC, 0x10#8)]

theorem test_pusha_K6 : after (exec .pusha k6) (fun t => t.regs.r7 == 0x3FFE0#32 && t.mem == k6mem) = true := by decide

theorem test_popa_K7 : after (exec .popa (sp 0#32 0x3FFE0#32 k6mem)) (fun t => t.regs == k6.regs) = true := by decide

theorem test_pushf_K8 : after (exec .pushf (two dflt 0#32 0#32 0x80000003#32))
    (fun t => t.regs.r7 == 0x3FFFC#32 && t.mem == [(0x3FFFC, 3#8), (0x3FFFF, 0x80#8)]) = true := by decide

theorem test_popf_K9 :
    after (exec .popf (sp 0#32 0x3FFFC#32 [(0x3FFFC, 0xFF#8), (0x3FFFD, 0xFF#8), (0x3FFFE, 0xFF#8), (0x3FFFF, 0xFF#8)]))
      (fun t => t.f == 0xFFFFFFFF#32 && t.regs.r7 == 0x40000#32) = true := by decide

/-! ## System (95_test_vectors.md section 4.6) -/

theorem test_print_Y1 : gives (exec .print (two dflt 5#32 0#32 3#32)) 5#32 3#32 = true := by decide

theorem test_standard_Y2_Y3 :
    after (exec (.standard (imm 6#32)) (two dflt 0#32 0#32 0#32)) (fun t => t.declined && t.mem == [] && t.ip == 1) = true ∧
    after (exec (.standard (imm 9#32)) (two dflt 1#32 0#32 0#32)) (fun t => t.declined && t.mem == [] && t.ip == 1) = true := by
  decide

theorem test_standard_Y4 :
    filterAccepts 7#32 ⟨0#32, 0#32, 0#32, 0#32, 0x1E000#32, 0#32, 0#32, 0#32⟩ = false ∧
    filterAccepts 7#32 ⟨0#32, 0#32, 0#32, 0#32, 0x1DFFF#32, 0#32, 0#32, 0#32⟩ = true := by decide

/-! ## The wrapper (95_test_vectors.md section 5) -/

theorem test_window_W1_W2_W3 :
    readWindow [(0x3C01C, 0x10#8), (0x3C020, 0xF0#8), (0x3C021, 0xFF#8), (0x3C022, 0x03#8)] = (0#32, 0#32) ∧
    readWindow [(0x3C01C, 0x0F#8), (0x3C020, 0xF0#8), (0x3C021, 0xFF#8), (0x3C022, 0x03#8)] = (0x3FFF0#32, 0xF#32) ∧
    readWindow [(0x3C01C, 0x05#8), (0x3C020, 0x10#8), (0x3C022, 0x04#8)] = (0x10#32, 5#32) := by decide

theorem test_write_back_W4_W5 :
    writeBack [(0x3C040, 1#8)] = [] ∧ (writeBack [(0x3C030, 4#8)]).length = 68 := by decide

/-- The first step after `withFetchWord` runs the word's instruction: `INC R1` on reset, and RET finishes. -/
theorem test_with_fetch_word :
    after (step (State.reset.withFetchWord 16 0x6480)) (fun t => t.regs.r1 == 1#32 && t.ip == 1) = true ∧
    after (step (State.reset.withFetchWord 16 0xB800)) (fun t => t.phase == .ended .finished) = true := by decide

/-! ## Witnesses: concrete inputs that meet the hypotheses of each statement that has some -/

/-- VlqFormsReadTheirValue: each clause at the ends of its range (bits of 95_test_vectors.md section 2.2). -/
theorem witness_VlqFormsReadTheirValue :
    ((0#32).toNat < 16 ∧ (BitReader.mk [] 0).startsWith ([false, false] ++ bitsMSB 4 0#32)) ∧
    ((15#32).toNat < 16 ∧ (BitReader.mk [0x3C#8] 0).startsWith ([false, false] ++ bitsMSB 4 15#32)) ∧
    (16 ≤ (16#32).toNat ∧ (16#32).toNat < 256 ∧ (BitReader.mk [0x44#8] 0).startsWith ([false, true] ++ bitsMSB 8 16#32)) ∧
    (16 ≤ (255#32).toNat ∧ (255#32).toNat < 256 ∧
      (BitReader.mk [0x7F#8, 0xC0#8] 0).startsWith ([false, true] ++ bitsMSB 8 255#32)) ∧
    (0xFFFFFF00 ≤ (0xFFFFFF00#32).toNat ∧
      (BitReader.mk [0x40#8] 0).startsWith ([false, true, false, false, false, false] ++ bitsMSB 8 0xFFFFFF00#32)) ∧
    (0xFFFFFF00 ≤ (0xFFFFFFFF#32).toNat ∧
      (BitReader.mk [0x43#8, 0xFC#8] 0).startsWith ([false, true, false, false, false, false] ++ bitsMSB 8 0xFFFFFFFF#32)) ∧
    ((0xFFFF#32).toNat < 65536 ∧ (BitReader.mk [0xBF#8, 0xFF#8, 0xC0#8] 0).startsWith ([true, false] ++ bitsMSB 16 0xFFFF#32)) ∧
    (BitReader.mk [0xC0#8, 0#8, 0#8, 0#8, 0x40#8] 0).startsWith ([true, true] ++ bitsMSB 32 1#32) := by
  unfold BitReader.startsWith; decide

/-- OperandFormsDecode: one stream for each form (bits of 95_test_vectors.md section 2.3). -/
theorem witness_OperandFormsDecode :
    (BitReader.mk [0xF0#8] 0).startsWith (true :: encodeReg .r7) ∧
    (BitReader.mk [0x4C#8] 0).startsWith ([false, true, false] ++ encodeReg .r3) ∧
    (BitReader.mk [0x6A#8, 0x88#8] 0).startsWith ([false, true, true, false] ++ encodeReg .r5) ∧
    (BitReader.mk [0x7B#8] 0).startsWith [false, true, true, true] ∧
    ((true = true ∧ ByteImm.raw8 = .raw8) ∧ (255#32).toNat < 256 ∧
      (BitReader.mk [0x3F#8, 0xC0#8] 0).startsWith ([false, false] ++ bitsMSB 8 255#32)) ∧
    ((false = false ∨ ByteImm.raw8 = .vlq) ∧ (BitReader.mk [0x05#8] 0).startsWith [false, false]) ∧
    ((true = false ∨ ByteImm.vlq = .vlq) ∧ (BitReader.mk [0x11#8, 0x40#8] 0).startsWith [false, false]) := by
  unfold BitReader.startsWith; decide

/-- PeekReturnsSixteenStreamBits, OpcodeFieldDecodes: opcodes 0, 7, 8 and 39. -/
theorem witness_OpcodeFieldDecodes :
    (0 < 16 ∧ 15 < 16) ∧ (0 < 8 ∧ (BitReader.mk [0x00#8] 0).startsWith (bitsMSB 4 (BitVec.ofNat 32 0))) ∧
    (7 < 8 ∧ (BitReader.mk [0x70#8] 0).startsWith (bitsMSB 4 (BitVec.ofNat 32 7))) ∧
    (8 ≤ 8 ∧ 8 < 40 ∧ (BitReader.mk [0x80#8] 0).startsWith (bitsMSB 6 (BitVec.ofNat 32 (8 + 24)))) ∧
    (8 ≤ 39 ∧ 39 < 40 ∧ (BitReader.mk [0xFC#8] 0).startsWith (bitsMSB 6 (BitVec.ofNat 32 (39 + 24)))) := by
  unfold BitReader.startsWith; decide

/-- JumpCorrectionInvertsTheDisplacementCode: each range at both ends, with the targets it states at index 5. -/
theorem witness_JumpCorrection :
    ((0 : Int) ≤ 7 ∧ (7 : Int) ≤ 7) ∧ ((-8 : Int) ≤ -8 ∧ (-8 : Int) ≤ -1) ∧ ((8 : Int) ≤ 127 ∧ (127 : Int) ≤ 127) ∧
    ((-128 : Int) ≤ -128 ∧ (-128 : Int) ≤ -9) ∧ ((-256 : Int) ≤ -256 ∧ (-256 : Int) ≤ -1) ∧
    (0x7FFFFEFF#32).toNat + 256 < 2 ^ 31 ∧
    ([7, -8 + 16, 127 + 8, -128 + 264, -256].map fun d : Int => correctTarget 5 (BitVec.ofInt 32 d)) =
      [12#32, 0xFFFFFFFD#32, 132#32, 0xFFFFFF85#32, 0xFFFFFF05#32] ∧
    correctTarget 5 (0x7FFFFEFF#32 + 256#32) = 0x7FFFFEFF#32 := by decide

/-- DecodeOfEncodeIsIdentity: `MOV.b [R1], #0xAB` (30_encoding.md's own bit string 0000 1 010001 00 10101011). -/
theorem witness_DecodeOfEncodeIsIdentity :
    (Instr.mov true (.mem .r1 0#32) (imm 0xAB#32)).wellFormed .raw8 0 = true ∧
    encode .raw8 0 (.mov true (.mem .r1 0#32) (imm 0xAB#32)) = some ([false, false, false, false, true] ++
      [false, true, false, false, false, true] ++ [false, false, true, false, true, false, true, false, true, true]) ∧
    (BitReader.mk [0x0A#8, 0x25#8, 0x58#8] 0).startsWith ([false, false, false, false, true] ++
      [false, true, false, false, false, true] ++ [false, false, true, false, true, false, true, false, true, true]) := by
  unfold BitReader.startsWith; decide

/-- PrepareRefusesExactlyBadLengths: lengths 1, 7552, 0 and 7553. -/
theorem witness_PrepareRefusesExactlyBadLengths :
    (1 ≤ [0#8].length ∧ [0#8].length ≤ dflt.maxCodeSize) ∧
    (1 ≤ (List.replicate 7552 0#8).length ∧ (List.replicate 7552 0#8).length ≤ dflt.maxCodeSize) ∧
    (([] : List Byte).length = 0 ∨ dflt.maxCodeSize < ([] : List Byte).length) ∧
    ((List.replicate 7553 0#8).length = 0 ∨ dflt.maxCodeSize < (List.replicate 7553 0#8).length) := by
  simp only [List.length_replicate, List.length_cons, List.length_nil]; decide

/-- BadChecksumGivesOnlyRet: vectors D3 and D2. -/
theorem witness_BadChecksumGivesOnlyRet :
    ([] : List Byte).foldl (fun x y => x ^^^ y) 0#8 ≠ 0x55#8 ∧ [1#8].foldl (fun x y => x ^^^ y) 0#8 ≠ 0#8 := by decide

/-- SignatureHitGivesStandardThenRet: the id-6 blob hits the fourth entry of the default table. -/
theorem witness_SignatureHitGivesStandardThenRet :
    deltaBlob.tail.foldl (fun x y => x ^^^ y) 0#8 = 0#8 ∧ deltaBlob = 0#8 :: deltaBlob.tail ∧
    dflt.stdSignatures = dflt.stdSignatures.take 3 ++ ⟨29, 0x0E06077D#32, 6#32⟩ :: dflt.stdSignatures.drop 4 ∧
    (∀ x ∈ dflt.stdSignatures.take 3, ¬ (x.len = deltaBlob.length ∧ x.crc = crcOf dflt.crc deltaBlob)) ∧
    29 = deltaBlob.length ∧ 0x0E06077D#32 = crcOf dflt.crc deltaBlob := by decide +kernel

/-- OrdinaryPrepareReadsStaticDataThenDecodesToTheEnd: vector D5 (no static data), D7 (three bytes) and D8 (five asked
for, two before the read limit). -/
theorem witness_OrdinaryPrepare :
    (∀ c ∈ [[0x5C#8, 0x5C#8], [0xF5#8, 0x84#8, 0x22#8, 0x44#8, 0x67#8, 0x70#8], [0xAA#8, 0x88#8, 0x22#8]],
      c.tail.foldl (fun x y => x ^^^ y) 0#8 = c.headD 0#8 ∧
      ∀ e ∈ dflt.stdSignatures, ¬ (e.len = c.length ∧ e.crc = crcOf dflt.crc c)) ∧
    (BitReader.mk [0x5C#8, 0x5C#8] 0).bitAt 8 = false ∧
    (BitReader.mk [0xF5#8, 0x84#8, 0x22#8, 0x44#8, 0x67#8, 0x70#8] 0).bitAt 8 = true ∧
    (BitReader.mk [0xAA#8, 0x88#8, 0x22#8] 0).bitAt 8 = true ∧
    (prepareCode dflt [0xAA#8, 0x88#8, 0x22#8]).staticData = [0x11#8, 0x00#8] := by decide

/-- OptimizerChangesOnlyOpcodes: a MOV and a CMP in a list. -/
theorem witness_OptimizerChangesOnlyOpcodes :
    [Instr.mov true R0 R1, .cmp false R0 R1][0]? = some (.mov true R0 R1) ∧
    [Instr.mov true R0 R1, .cmp false R0 R1][1]? = some (.cmp false R0 R1) := by decide

/-- DeadFlagSpecialisationRule, the required case: INC before JZ. -/
theorem witness_DeadFlag_required :
    [Instr.inc false R0, .jz R1][0]? = some (.inc false R0) ∧
    (∃ (m : Nat) (j : Instr), 0 < m ∧ [Instr.inc false R0, .jz R1][m]? = some j ∧
      ((opInfo j.opcode).j = true ∨ (opInfo j.opcode).p = true ∨ (opInfo j.opcode).u = true) ∧
      ∀ (l : Nat) (x : Instr), 0 < l → l < m → [Instr.inc false R0, .jz R1][l]? = some x → (opInfo x.opcode).c = false) ∧
    (Instr.inc false R0).opcode ≠ 0 ∧ (Instr.inc false R0).opcode ≠ 1 :=
  ⟨rfl, ⟨1, .jz R1, by decide, rfl, by decide, fun l _ h h' => by omega⟩, by decide, by decide⟩

/-- DeadFlagSpecialisationRule, the dead case, for any instruction before POPF: ADD, SUB, INC, DEC, NEG and others. -/
theorem witness_DeadFlag_dead (i : Instr) :
    [i, Instr.popf][0]? = some i ∧
    ¬ ∃ (m : Nat) (j : Instr), 0 < m ∧ [i, Instr.popf][m]? = some j ∧
      ((opInfo j.opcode).j = true ∨ (opInfo j.opcode).p = true ∨ (opInfo j.opcode).u = true) ∧
      ∀ (l : Nat) (x : Instr), 0 < l → l < m → [i, Instr.popf][l]? = some x → (opInfo x.opcode).c = false := by
  refine ⟨rfl, ?_⟩
  rintro ⟨m, j, hm, hj, h, -⟩
  match m, hm, hj with
  | 1, _, hj =>
    have : Instr.popf = j := by simpa using hj
    subst this
    revert h
    decide
  | _ + 2, _, hj => simp at hj

/-- INC R0; POPF; RET, run unoptimised with F = 0. -/
def plain : State := { two dflt 0#32 0#32 0#32 with programs := [{ Program.empty with cmd := [.inc false R0, .popf, .ret] }] }

/-- The same optimized, run with another F, which is dead at INCD. -/
def opt : State :=
  { two dflt 0#32 0#32 7#32 with programs := [{ Program.empty with cmd := [.incd R0, .popf, .ret] }] }

theorem witness_OptimizedProgramSimulates :
    plain.phase = .running ∧ OptRelated plain opt ∧ ∃ s', step plain = .next s' :=
  ⟨rfl, ⟨rfl, rfl, .inr rfl⟩, ⟨_, rfl⟩⟩

/-- CanonicalMemoriesThatReadAlikeAreEqual: two writes in either order. -/
theorem witness_CanonicalMemories :
    Memory.wf (writeByte (writeByte [] 1 5#8) 2 6#8) = true ∧ Memory.wf (writeByte (writeByte [] 2 6#8) 1 5#8) = true ∧
    ∀ a, readByte (writeByte (writeByte [] 1 5#8) 2 6#8) a = readByte (writeByte (writeByte [] 2 6#8) 1 5#8) a :=
  ⟨by decide, by decide, fun _ => rfl⟩

/-- OnlyStandardReachesTheLastGuardByte: a load of the highest dword, and two memories that differ in byte 0x40003. -/
theorem witness_OnlyStandardReachesTheLastGuardByte :
    (Instr.movd R0 (.memAbs 0x3FFFF#32)).isStandard = false ∧ readByte [(0x40003, 5#8)] 0x40003 ≠ readByte [] 0x40003 ∧
    ∀ a, a ≠ 0x40003 → readByte [(0x40003, 5#8)] a = readByte (two dflt 0#32 0#32 0#32).mem a :=
  ⟨rfl, by decide, fun _ h => if_neg (Ne.symm h)⟩

/-- MulAndDivResults: divisors 1 and 0. -/
theorem witness_MulAndDivResults :
    (operandValue (two dflt 7#32 1#32 0#32) R1 .dword).toNat ≠ 0 ∧
    (operandValue (two dflt 7#32 0#32 0#32) R1 .dword).toNat = 0 := by decide

/-- RetFinishesOrPopsItsTarget: R7 at MEMSIZE, one below it, and a return that goes on. -/
theorem witness_RetFinishesOrPops :
    0x40000 ≤ ((sp 0#32 0x40000#32 []).reg .r7).toNat ∧ ((sp 0#32 0x3FFFF#32 []).reg .r7).toNat < 0x40000 ∧
    ¬ ((sp 0#32 0x3FFFF#32 []).cmdCount ≤ (memRead32 (sp 0#32 0x3FFFF#32 []).mem 0x3FFFF).toNat ∨
      (sp 0#32 0x3FFFF#32 []).budget - 1 ≤ 0) := by decide

/-- EveryInstructionCostsOneBudgetUnit: each of its three outcomes. -/
theorem witness_EveryInstructionCostsOneBudgetUnit :
    (two dflt 0#32 0#32 0#32).phase = .running ∧ (∃ t, exec .print (two dflt 0#32 0#32 0#32) = .next t ∧ t.phase = .running) ∧
    (∃ t, exec .ret (two dflt 0#32 0#32 0#32) = .next t ∧ t.phase = .ended .finished) ∧
    (∃ t, exec (.jmp (imm 0#32)) { two dflt 0#32 0#32 0#32 with budget := 1 } = .next t ∧ t.phase = .ended .exhausted) :=
  ⟨rfl, ⟨_, rfl, rfl⟩, ⟨_, rfl, rfl⟩, ⟨_, rfl, rfl⟩⟩

theorem witness_PopaAfterPusha : ∃ t u, exec .pusha k6 = .next t ∧ exec .popa t = .next u := ⟨_, _, rfl, rfl⟩

/-- A state with R0, R1 and R4 given. -/
def params (r0 r1 r4 : Word) : State := at0 dflt ⟨r0, r1, 0#32, 0#32, r4, 0#32, 0#32, 0x40000#32⟩ 0#32 []

/-- StandardDeclinesExactlyOutsideItsPrecondition: registers at which each id's precondition holds at an end of its
range, and registers one past an end. -/
theorem witness_StandardPreconditions :
    (∀ x ∈ [(1, params 0#32 0#32 4#32), (2, params 0#32 0#32 0x40000#32), (3, params 0#32 0#32 21#32), (4, params 6#32 2#32 3#32),
        (5, params 128#32 0#32 0x1FFFF#32), (6, params 1024#32 0#32 0#32), (7, params 0#32 0#32 0x1DFFF#32)],
      filterAccepts (BitVec.ofNat 32 x.1) x.2.regs = true ∧ (operandValue x.2 (imm (BitVec.ofNat 32 x.1)) .dword).toNat = x.1) ∧
    (∀ x ∈ [(0, params 1#32 0#32 4#32), (1, params 0#32 0#32 3#32), (2, params 0#32 0#32 0x40001#32), (3, params 0#32 0#32 20#32),
        (4, params 2#32 2#32 3#32), (5, params 129#32 0#32 0#32), (6, params 0#32 0#32 0#32), (7, params 0#32 0#32 0x1E000#32),
        (8, params 1#32 0#32 4#32)],
      filterAccepts (BitVec.ofNat 32 x.1) x.2.regs = false) := by decide

/-- AcceptingFilterRecordsItsWindow: the delta filter on 8 bytes with one channel. -/
theorem witness_AcceptingFilter : (∃ m, stdFilter 6#32 (params 1#32 0#32 8#32).regs [(0, 1#8)] = some m) ∧
    Memory.wf [(0, 1#8)] = true := by
  refine ⟨?_, by decide⟩
  have h : filterAccepts 6#32 (params 1#32 0#32 8#32).regs = true := by decide
  simp [stdFilter, h]

/-- P6's Program and inputs (95_test_vectors.md section 7). -/
def p6 : Program :=
  { Program.empty with
    cmd := [.movzx R0 (.memAbs 0x3C040#32), .movd (.memAbs 0x3C030#32) (imm 4#32), .movd (.memAbs 0x3C040#32) R0, .ret]
    staticData := [0xDE#8, 0xAD#8], globalData := List.replicate 64 0#8 }

/-- An idle instance with P6 whose host has one request. -/
def idleWith (q : HostRequest) : State := { State.reset with programs := [p6], host := [q] }

/-- An instance whose execute of P6 has ended. -/
def endedWith (o : ExecOutcome) (c : Config) (m : Memory) : State :=
  { State.reset with cfg := c, phase := .ended o, programs := [p6], mem := m }

theorem witness_ExecuteStart :
    (idleWith (.execute 0)).phase = .idle ∧ (idleWith (.execute 0)).host = .execute 0 :: [] ∧
    (idleWith (.execute 0)).programs[0]? = some p6 := ⟨rfl, rfl, rfl⟩

/-- ExecuteEndReportsTheResultWindow: the clauses for an empty window (W7 and W1) and for another (W2). -/
theorem witness_ExecuteEnd :
    (endedWith .exhausted { dflt with exhaustWindow := .empty } []).phase = .ended .exhausted ∧
    ((endedWith .exhausted { dflt with exhaustWindow := .empty } []).cfg.exhaustWindow = .empty ∧
      ExecOutcome.exhausted = .exhausted) ∧
    0x40000 ≤ (memRead32 [(0x3C01C, 0x10#8), (0x3C020, 0xF0#8), (0x3C021, 0xFF#8), (0x3C022, 0x03#8)] 0x3C020).toNat % 2 ^ 18 +
      (memRead32 [(0x3C01C, 0x10#8), (0x3C020, 0xF0#8), (0x3C021, 0xFF#8), (0x3C022, 0x03#8)] 0x3C01C).toNat % 2 ^ 18 ∧
    ¬ 0x40000 ≤ (memRead32 [(0x3C01C, 0x0F#8), (0x3C020, 0xF0#8), (0x3C021, 0xFF#8), (0x3C022, 0x03#8)] 0x3C020).toNat % 2 ^ 18 +
      (memRead32 [(0x3C01C, 0x0F#8), (0x3C020, 0xF0#8), (0x3C021, 0xFF#8), (0x3C022, 0x03#8)] 0x3C01C).toNat % 2 ^ 18 := by
  decide

/-- GlobalDataWriteBack: an empty write-back (W4) and one of 68 bytes (W5). -/
theorem witness_GlobalDataWriteBack :
    (endedWith .finished dflt []).phase = .ended .finished ∧ (endedWith .finished dflt []).programs[0]? = some p6 ∧
    min (memRead32 [] 0x3C030).toNat 0x1FC0 = 0 ∧ min (memRead32 [(0x3C030, 4#8)] 0x3C030).toNat 0x1FC0 ≠ 0 := by decide

/-- ExecuteEndRewritesInstructionsOnlyByPoison: both settings, on P6, and a place no execute chose. -/
theorem witness_ExecuteEndPoison :
    (endedWith .exhausted { dflt with poisonOnExhaust := true } []).phase = .ended .exhausted ∧
    (endedWith .exhausted { dflt with poisonOnExhaust := true } []).cfg.poisonOnExhaust = true ∧ p6.cmd ≠ [] ∧
    (endedWith .finished dflt []).programs[(endedWith .finished dflt []).cur]? = some p6 ∧
    (endedWith .finished dflt []).cfg.poisonOnExhaust = false ∧ 1 ≠ (endedWith .finished dflt []).cur ∧ 0 < 1 := by decide

/-- PrepareRequestTouchesNoVmState: a bytecode that is accepted and one that is refused. -/
theorem witness_PrepareRequest :
    (idleWith (.prepare [0#8])).phase = .idle ∧ (idleWith (.prepare [0#8])).host = .prepare [0#8] :: [] ∧
    (1 ≤ [0#8].length ∧ [0#8].length ≤ (idleWith (.prepare [0#8])).cfg.maxCodeSize) ∧
    (idleWith (.prepare [])).host = .prepare [] :: [] ∧
    ¬ (1 ≤ ([] : List Byte).length ∧ ([] : List Byte).length ≤ (idleWith (.prepare [])).cfg.maxCodeSize) := by decide

/-- SetUpRequestsWriteOnlyWhatTheyName: one request for each clause: an existing Program, a GlobalData of one byte, the
last guard byte, and requests one past what exists. -/
theorem witness_SetUpRequests :
    (∀ q ∈ [HostRequest.setInitR 0 InitRegs.zero, .setGlobalData 0 [1#8], .writeMem 0x40003 [1#8], .setInitR 1 InitRegs.zero,
        .setGlobalData 1 [1#8], .execute 1, .writeMem 0x40004 [1#8]],
      (idleWith q).phase = .idle ∧ (idleWith q).host = q :: []) ∧
    (idleWith (.execute 1)).programs[0]? = some p6 ∧ 0x40003 + [1#8].length ≤ 0x40004 ∧
    (idleWith (.execute 1)).programs.length ≤ 1 ∧ 0x40004 < 0x40004 + [1#8].length := by decide

/-- The step ends in this refusal. -/
def refuses (o : StepResult) (r : Refusal) : Bool :=
  match o with
  | .refused x => x == r
  | .next _ => false
  | .fault _ => false

/-- A host write to the last guard byte, and a set-up of a Program that does not exist. -/
theorem test_host_requests :
    after (step (idleWith (.writeMem 0x40003 [1#8]))) (fun t => t.mem == [(0x40003, 1#8)] && t.host == []) = true ∧
    refuses (step (idleWith (.setInitR 1 InitRegs.zero))) (.noSuchProgram 1) = true := by decide

theorem witness_StepExecutesTheFetchedInstruction :
    plain.phase = .running ∧ plain.program.cmd[plain.ip]? = some (.inc false R0) ∧
    decodeTableWord 16 0x6480 = some (.inc false R1) := by decide

theorem witness_NoInstructionChangesAProgram : ∃ t, exec (.push R0) plain = .next t := ⟨_, rfl⟩

theorem witness_OtherInstructionsLeaveFlags :
    (Instr.mul false R0 R0).opcode ∉ [1, 2, 3, 6, 7, 9, 10, 11, 12, 24, 25, 26, 27, 31, 37, 38, 42, 43] ∧
    ∃ t, exec (.mul false R0 R0) plain = .next t := ⟨by decide, _, rfl⟩

/-- StepKeepsTheInvariant, NoStepFaultsUnderTheInvariant, EveryExecuteTerminates: a running state that meets it. -/
theorem witness_Invariant : Invariant plain ∧ plain.phase = .running ∧ plain.phase ≠ .idle ∧ ∃ t, step plain = .next t :=
  ⟨⟨by decide, by decide, by decide, by decide, by decide, by decide, by decide⟩, rfl, by decide, _, rfl⟩

/-- The same in an ended state. -/
theorem witness_Invariant_ended : Invariant (endedWith .finished dflt []) ∧ (endedWith .finished dflt []).phase ≠ .idle :=
  ⟨⟨by decide, by decide, by decide, by decide, by decide, by decide, by decide⟩, by decide⟩

end Sys2Proof.Tests
end

/-! PROOF. Every step keeps the invariant of the machine, and the instructions outside R38's list leave F unchanged.

The proof goes through one inversion of `exec` (`exec_cases`): an instruction runs a body, which keeps everything the
invariant speaks of, and then either advances or transfers control. -/

namespace Sys2Proof.Machine

/-! ## What an instruction's body keeps -/

/-- `u` is what the body of an instruction makes of `s` before control moves on: registers, F, `declined` and the bytes
of memory may be new, memory stays canonical, and nothing else changes. -/
structure BodyKept (s u : State) : Prop where
  cfg : u.cfg = s.cfg
  phase : u.phase = s.phase
  ip : u.ip = s.ip
  budget : u.budget = s.budget
  programs : u.programs = s.programs
  cur : u.cur = s.cur
  reader : u.reader = s.reader
  host : u.host = s.host
  reply : u.reply = s.reply
  memory : Memory.wf s.mem = true → Memory.wf u.mem = true

theorem BodyKept.refl (s : State) : BodyKept s s := ⟨rfl, rfl, rfl, rfl, rfl, rfl, rfl, rfl, rfl, id⟩

theorem BodyKept.trans {s u v : State} (h : BodyKept s u) (k : BodyKept u v) : BodyKept s v :=
  ⟨k.cfg.trans h.cfg, k.phase.trans h.phase, k.ip.trans h.ip, k.budget.trans h.budget, k.programs.trans h.programs,
    k.cur.trans h.cur, k.reader.trans h.reader, k.host.trans h.host, k.reply.trans h.reply, k.memory ∘ h.memory⟩

theorem bodyKept_setF (s : State) (v : Word) : BodyKept s (s.setF v) :=
  ⟨rfl, rfl, rfl, rfl, rfl, rfl, rfl, rfl, rfl, id⟩

theorem bodyKept_setRegs (s : State) (rs : Regs) : BodyKept s (s.setRegs rs) :=
  ⟨rfl, rfl, rfl, rfl, rfl, rfl, rfl, rfl, rfl, id⟩

theorem bodyKept_setReg (s : State) (r : Reg) (v : Word) : BodyKept s (s.setReg r v) := bodyKept_setRegs s _

theorem bodyKept_setDeclined (s : State) (b : Bool) : BodyKept s (s.setDeclined b) :=
  ⟨rfl, rfl, rfl, rfl, rfl, rfl, rfl, rfl, rfl, id⟩

theorem bodyKept_setMem {s : State} {m : Memory} (h : Memory.wf s.mem = true → Memory.wf m = true) :
    BodyKept s (s.setMem m) :=
  ⟨rfl, rfl, rfl, rfl, rfl, rfl, rfl, rfl, rfl, h⟩

theorem bodyKept_storeTop (s : State) (v : Word) : BodyKept s (storeTop s v) := bodyKept_setMem (storeTop_wf · v)

theorem bodyKept_push (s : State) (v : Word) : BodyKept s (storeTop (decSp s) v) :=
  (bodyKept_setReg s _ _).trans (bodyKept_storeTop _ v)

/-- A write to a resolved operand stays inside memory, so that it keeps the canonical form (20_memory.md R71, R81). -/
theorem bodyKept_writeOp (s : State) (rs : Regs) (op : Operand) (w : Width) (v : Word) :
    BodyKept s (writeOp s (resolve rs op) w v) := by
  constructor
  case memory => exact fun h => writeOp_wf h w v
  all_goals simp

/-! ## The two ways control goes on -/

/-- `t` is a body's state with control moved on to IP + 1 (43_control.md R301). -/
def Advances (s t : State) : Prop := ∃ u, BodyKept s u ∧ t = advance u

/-- What a transfer of control makes of a body's state (43_control.md R300, R313): the execute is over, or IP is at a
target inside the Program. -/
inductive Redirects (u : State) : State → Prop where
  | finished : Redirects u (finish u .finished)
  | exhausted (h : u.budget - 1 ≤ 0) : Redirects u (finish (u.setBudget (u.budget - 1)) .exhausted)
  | jumped (target : Nat) (ht : target < u.cmdCount) (hb : 0 < u.budget - 1) :
      Redirects u ((u.setBudget (u.budget - 1)).setIp target)

/-- `t` is a body's state with control transferred. -/
def Transfers (s t : State) : Prop := ∃ u, BodyKept s u ∧ Redirects u t

/-- Everything a completed `setIP` can be (43_control.md R300). -/
theorem setIP_cases (s : State) (target : Word) :
    (∃ t, setIP s target = .ended t ∧ Redirects s t) ∨
    (target.toNat < s.cmdCount ∧ 0 < s.budget - 1 ∧
      setIP s target = .continued ((s.setBudget (s.budget - 1)).setIp target.toNat)) := by
  by_cases ht : s.cmdCount ≤ target.toNat
  · exact .inl ⟨_, if_pos ht, .finished⟩
  · have hset : setIP s target = if s.budget - 1 ≤ 0 then _ else _ := if_neg ht
    by_cases hb : s.budget - 1 ≤ 0
    · exact .inl ⟨_, hset.trans (if_pos hb), .exhausted hb⟩
    · exact .inr ⟨not_le.mp ht, not_le.mp hb, hset.trans (if_neg hb)⟩

theorem setIP_redirects (s : State) (target : Word) : Redirects s (setIP s target).state := by
  obtain ⟨t, he, hr⟩ | ⟨ht, hb, he⟩ := setIP_cases s target
  · rw [he]; exact hr
  · rw [he]; exact .jumped _ ht hb

/-! ## What each shape of instruction does to control -/

section
variable {s t : State} {w : Width} {op1 op2 : Operand}

theorem aluBinary_advances {result flags : Word → Word → Word} (h : aluBinary w op1 op2 result flags s = .next t) :
    Advances s t := by
  cases h
  exact ⟨_, (bodyKept_writeOp s _ _ _ _).trans (bodyKept_setF _ _), rfl⟩

theorem quietBinary_advances {result : Word → Word → Word} (h : quietBinary w op1 op2 result s = .next t) :
    Advances s t := by
  cases h
  exact ⟨_, bodyKept_writeOp s _ _ _ _, rfl⟩

theorem flagsOnly_advances {flags : Word → Word → Word} (h : flagsOnly w op1 op2 flags s = .next t) :
    Advances s t := by
  cases h
  exact ⟨_, bodyKept_setF s _, rfl⟩

theorem aluUnary_advances {result flags : Word → Word} (h : aluUnary w op1 result flags s = .next t) :
    Advances s t := by
  cases h
  exact ⟨_, (bodyKept_writeOp s _ _ _ _).trans (bodyKept_setF _ _), rfl⟩

theorem quietUnary_advances {result : Word → Word} (h : quietUnary w op1 result s = .next t) : Advances s t := by
  cases h
  exact ⟨_, bodyKept_writeOp s _ _ _ _, rfl⟩

theorem moveOp_advances {wr : Width} {f : Word → Word} (h : moveOp wr w op1 op2 f s = .next t) : Advances s t := by
  cases h
  exact ⟨_, bodyKept_writeOp s _ _ _ _, rfl⟩

theorem execDiv_advances {bm : Bool} (h : execDiv bm op1 op2 s = .next t) : Advances s t := by
  unfold execDiv at h
  split at h
  · cases h
    exact ⟨s, .refl s, rfl⟩
  · exact quietBinary_advances h

theorem execXchg_advances {bm : Bool} (h : execXchg bm op1 op2 s = .next t) : Advances s t := by
  cases h
  exact ⟨_, (bodyKept_writeOp s _ _ _ _).trans (bodyKept_writeOp _ _ _ _ _), rfl⟩

theorem execPush_advances (h : execPush op1 s = .next t) : Advances s t := by
  cases h
  exact ⟨_, bodyKept_push s _, rfl⟩

theorem execPop_advances (h : execPop op1 s = .next t) : Advances s t := by
  cases h
  exact ⟨_, (bodyKept_writeOp s _ _ _ _).trans (bodyKept_setReg _ _ _), rfl⟩

theorem execPusha_advances (h : execPusha s = .next t) : Advances s t := by
  cases h
  exact ⟨_, (bodyKept_setMem (pushWords_wf _)).trans (bodyKept_setReg _ _ _), rfl⟩

theorem execPopa_advances (h : execPopa s = .next t) : Advances s t := by
  cases h
  exact ⟨_, bodyKept_setRegs s _, rfl⟩

theorem execPushf_advances (h : execPushf s = .next t) : Advances s t := by
  cases h
  exact ⟨_, bodyKept_push s _, rfl⟩

theorem execPopf_advances (h : execPopf s = .next t) : Advances s t := by
  cases h
  exact ⟨_, (bodyKept_setF s _).trans (bodyKept_setReg _ _ _), rfl⟩

theorem execPrint_advances (h : execPrint s = .next t) : Advances s t := by
  cases h
  exact ⟨s, .refl s, rfl⟩

theorem execStandard_advances (h : execStandard op1 s = .next t) : Advances s t := by
  unfold execStandard at h
  split at h
  · next m hm =>
    cases h
    exact ⟨_, bodyKept_setMem (stdFilter_wf · hm), rfl⟩
  · cases h
    exact ⟨_, bodyKept_setDeclined s true, rfl⟩

/-- A jump transfers control or, with its condition false, advances (43_control.md section 2). -/
theorem jumpIf_cases {cond : Bool} (h : jumpIf cond op1 s = .next t) : Advances s t ∨ Transfers s t := by
  cases cond
  · cases h
    exact .inl ⟨s, .refl s, rfl⟩
  · cases h
    exact .inr ⟨s, .refl s, setIP_redirects s _⟩

theorem execCall_transfers (h : execCall op1 s = .next t) : Transfers s t := by
  cases h
  exact ⟨_, bodyKept_push s _, setIP_redirects _ _⟩

/-- RET never advances: it finishes, or transfers to the popped index with R7 moved up (43_control.md R313). -/
theorem execRet_transfers (h : execRet s = .next t) : Transfers s t := by
  unfold execRet at h
  split at h
  · cases h
    exact ⟨s, .refl s, .finished⟩
  · obtain ⟨u, he, hr⟩ | ⟨ht, hb, he⟩ := setIP_cases s (loadTop s)
    · rw [he] at h
      cases h
      exact ⟨s, .refl s, hr⟩
    · rw [he] at h
      cases h
      exact ⟨incSp s, bodyKept_setReg s _ _, .jumped (u := incSp s) _ ht hb⟩

end

/-- Everything a completed instruction does to control: any but RET may advance, and some transfer
(43_control.md R300, R301). -/
theorem exec_cases {i : Instr} {s t : State} (h : exec i s = .next t) :
    (i ≠ .ret ∧ Advances s t) ∨ Transfers s t := by
  cases i with
  | mov | movb | movd | movzx | movsx => exact .inl ⟨nofun, moveOp_advances h⟩
  | add | sub | adc | sbb | shl | shr | sar => exact .inl ⟨nofun, aluBinary_advances h⟩
  | and | or | xor =>
    simp only [exec, execAnd, execOr, execXor] at h
    exact .inl ⟨nofun, aluBinary_advances h⟩
  | inc | dec | neg => exact .inl ⟨nofun, aluUnary_advances h⟩
  | cmp | cmpb | cmpd => exact .inl ⟨nofun, flagsOnly_advances h⟩
  | test => exact .inl ⟨nofun, flagsOnly_advances (flags := fun v1 v2 => zs (v1 &&& v2)) h⟩
  | mul | addb | addd | subb | subd => exact .inl ⟨nofun, quietBinary_advances h⟩
  | not | negb | negd => exact .inl ⟨nofun, quietUnary_advances h⟩
  | incb | incd => exact .inl ⟨nofun, quietUnary_advances (result := fun v => v + 1#32) h⟩
  | decb | decd => exact .inl ⟨nofun, quietUnary_advances (result := fun v => v - 1#32) h⟩
  | jmp => exact (jumpIf_cases (cond := true) h).imp_left fun ha => ⟨nofun, ha⟩
  | jz | jnz | js | jns | jb | jbe | ja | jae => exact (jumpIf_cases h).imp_left fun ha => ⟨nofun, ha⟩
  | div => exact .inl ⟨nofun, execDiv_advances h⟩
  | xchg => exact .inl ⟨nofun, execXchg_advances h⟩
  | push => exact .inl ⟨nofun, execPush_advances h⟩
  | pop => exact .inl ⟨nofun, execPop_advances h⟩
  | pusha => exact .inl ⟨nofun, execPusha_advances h⟩
  | popa => exact .inl ⟨nofun, execPopa_advances h⟩
  | pushf => exact .inl ⟨nofun, execPushf_advances h⟩
  | popf => exact .inl ⟨nofun, execPopf_advances h⟩
  | print => exact .inl ⟨nofun, execPrint_advances h⟩
  | standard => exact .inl ⟨nofun, execStandard_advances h⟩
  | call => exact .inr (execCall_transfers h)
  | ret => exact .inr (execRet_transfers h)

/-! ## Programs: the terminal RET and the place of STANDARD (30_encoding.md R140) -/

theorem getLast?_of_programWellFormed {cmd : List Instr} (h : programWellFormed cmd = true) :
    cmd.getLast? = some .ret := by
  simp only [programWellFormed, Bool.and_eq_true, beq_iff_eq] at h
  exact h.1

theorem programWellFormed_of_no_standard {cmd : List Instr} (hl : cmd.getLast? = some .ret)
    (hn : ∀ i ∈ cmd, i.isStandard = false) : programWellFormed cmd = true := by
  have ha : cmd.any Instr.isStandard = false := by simpa using hn
  simp [programWellFormed, hl, ha]

theorem length_pos_of_programWellFormed {cmd : List Instr} (h : programWellFormed cmd = true) : 0 < cmd.length := by
  cases cmd with
  | nil => cases h
  | cons i cmd => exact Nat.succ_pos _

/-- Only a RET stands at the last index of a Program (30_encoding.md R140). -/
theorem succ_lt_length_of_ne_ret {cmd : List Instr} {k : Nat} {i : Instr} (h : programWellFormed cmd = true)
    (hk : cmd[k]? = some i) (hi : i ≠ .ret) : k + 1 < cmd.length := by
  have hlt : k < cmd.length := (List.getElem?_eq_some_iff.mp hk).1
  by_contra hge
  have hlast : cmd[k]? = some .ret := by
    rw [show k = cmd.length - 1 by omega, ← List.getLast?_eq_getElem?]
    exact getLast?_of_programWellFormed h
  exact hi (Option.some.inj (hk.symm.trans hlast))

/-- Without its instruction 0, a Program holds no STANDARD: after a STANDARD stands only the terminal RET
(30_encoding.md R140). -/
theorem no_standard_in_tail {i : Instr} {rest : List Instr} (h : programWellFormed (i :: rest) = true) :
    ∀ j ∈ rest, j.isStandard = false := by
  have hl := getLast?_of_programWellFormed h
  simp only [programWellFormed, Bool.and_eq_true, Bool.or_eq_true, Bool.not_eq_true'] at h
  obtain ⟨-, hn | ⟨hlen, -⟩⟩ := h
  · intro j hj
    simpa using List.any_eq_false.mp hn j (List.mem_cons_of_mem _ hj)
  · obtain ⟨x, rfl⟩ : ∃ x, rest = [x] := List.length_eq_one_iff.mp (by simpa using hlen)
    have hx : x = .ret := by simpa using hl
    simp [hx, Instr.isStandard]

/-- Poison keeps a Program well formed (70_reset_and_hazards.md R436). -/
theorem poisoned_wf (cfg : Config) (o : ExecOutcome) {cmd : List Instr} (h : programWellFormed cmd = true) :
    programWellFormed (poisoned cfg o cmd) = true := by
  unfold poisoned
  split
  · cases cmd with
    | nil => cases h
    | cons i rest =>
      refine programWellFormed_of_no_standard ?_ ?_
      · have hl := getLast?_of_programWellFormed h
        cases rest with
        | nil => rfl
        | cons j rest => simpa using hl
      · simpa [Instr.isStandard] using no_standard_in_tail h
  · exact h

/-! ### The decoder makes no STANDARD -/

theorem ofOpcode_isStandard (op : Nat) (bm : Bool) (a b : Operand) : (Instr.ofOpcode op bm a b).isStandard = false := by
  unfold Instr.ofOpcode
  split <;> rfl

theorem decodeInstr_isStandard (bi : ByteImm) (k : Nat) (r : BitReader) :
    (decodeInstr bi k r).1.isStandard = false := by
  unfold decodeInstr
  dsimp only
  split <;> exact ofOpcode_isStandard _ _ _ _

theorem decodeLoop_no_standard (bi : ByteImm) (limit : Nat) : ∀ (fuel k : Nat) (r : BitReader),
    ∀ i ∈ (decodeLoop bi fuel limit k r).1, i.isStandard = false
  | 0, _, _ => by simp [decodeLoop]
  | fuel + 1, k, r => by
    unfold decodeLoop
    split
    · simpa [decodeInstr_isStandard] using decodeLoop_no_standard bi limit fuel (k + 1) _
    · simp

theorem specialise_isStandard (required : Bool) (i : Instr) : (specialise required i).isStandard = i.isStandard := by
  cases i with
  | mov bm | cmp bm => cases bm <;> rfl
  | add bm | sub bm | inc bm | dec bm | neg bm => cases required <;> cases bm <;> rfl
  | _ => rfl

/-- The optimizer makes no STANDARD (30_encoding.md R145). -/
theorem optimize_no_standard {is : List Instr} (h : ∀ i ∈ is, i.isStandard = false) :
    ∀ i ∈ optimize is, i.isStandard = false := by
  induction is with
  | nil => simp [optimize]
  | cons i is ih =>
    obtain ⟨hi, his⟩ := List.forall_mem_cons.mp h
    exact List.forall_mem_cons.mpr ⟨(specialise_isStandard _ i).trans hi, ih his⟩

theorem optimize_getLast? (is : List Instr) : (optimize is).getLast? = is.getLast?.map (specialise false) := by
  rw [List.getLast?_eq_getElem?, List.getLast?_eq_getElem?, optimize_length, optimize_getElem?,
    List.drop_eq_nil_of_le (by omega)]
  rfl

theorem optimize_append_ret_wf {is : List Instr} (h : ∀ i ∈ is, i.isStandard = false) :
    programWellFormed (optimize (is ++ [.ret])) = true := by
  refine programWellFormed_of_no_standard ?_ (optimize_no_standard ?_)
  · rw [optimize_getLast?, List.getLast?_concat]
    rfl
  · intro i hi
    rcases List.mem_append.mp hi with hi | hi
    · exact h i hi
    · rw [List.mem_singleton.mp hi]
      rfl

/-- Every Program that `prepare` makes is well formed, by each of its three ways (30_encoding.md R130, R132, R133). -/
theorem prepareCode_wf (cfg : Config) (code : List Byte) : programWellFormed (prepareCode cfg code).cmd = true := by
  unfold prepareCode
  dsimp only
  split
  · split
    · rfl
    · exact optimize_append_ret_wf (decodeLoop_no_standard _ _ _ _ _)
  · rfl

/-! ## The result window (70_reset_and_hazards.md R433, R435) -/

theorem readWindow_inside (m : Memory) : (readWindow m).1.toNat + (readWindow m).2.toNat < memSize := by
  unfold readWindow
  dsimp only
  split
  · decide
  · next h => exact not_le.mp h

theorem resultWindow_inside (cfg : Config) (o : ExecOutcome) (m : Memory) :
    (resultWindow cfg o m).1.toNat + (resultWindow cfg o m).2.toNat < memSize := by
  unfold resultWindow
  split
  · decide
  · exact readWindow_inside m

/-! ## The invariant through one step -/

/-- A property that a change keeps holds of every element after the change at one place. -/
theorem forall_mem_modify {α : Type} {P : α → Prop} {f : α → α} {l : List α} (n : Nat) (hl : ∀ x ∈ l, P x)
    (hf : ∀ x, P x → P (f x)) : ∀ x ∈ l.modify n f, P x := by
  intro x hx
  obtain ⟨k, hk⟩ := List.mem_iff_getElem?.mp hx
  rw [List.getElem?_modify] at hk
  obtain ⟨y, hy, rfl⟩ := Option.map_eq_some_iff.mp hk
  have hP := hl y (List.mem_of_getElem? hy)
  split
  · exact hf y hP
  · exact hP

theorem BodyKept.invariant {s u : State} (hb : BodyKept s u) (h : Invariant s) : Invariant u where
  memory := hb.memory h.memory
  config := hb.cfg ▸ h.config
  programs := hb.programs ▸ h.programs
  windows := hb.programs ▸ h.windows
  fetch hp := by
    rw [hb.ip, cmdCount_congr hb.programs hb.cur]
    exact h.fetch (hb.phase.symm.trans hp)
  reader := by
    rw [hb.reader, hb.cfg]
    exact h.reader
  budget := hb.budget ▸ h.budget

theorem invariant_advance {u : State} (h : Invariant u) (hip : u.ip + 1 < u.cmdCount) : Invariant (advance u) :=
  ⟨h.memory, h.config, h.programs, h.windows, fun _ => hip, h.reader, by
    have := h.budget
    simp only [advance_budget]
    omega⟩

theorem Redirects.invariant {u t : State} (hr : Redirects u t) (h : Invariant u) : Invariant t := by
  have hbudget : u.budget - 1 ≤ maxOps := by
    have := h.budget
    omega
  cases hr with
  | finished => exact ⟨h.memory, h.config, h.programs, h.windows, nofun, h.reader, h.budget⟩
  | exhausted _ => exact ⟨h.memory, h.config, h.programs, h.windows, nofun, h.reader, hbudget⟩
  | jumped target ht _ => exact ⟨h.memory, h.config, h.programs, h.windows, fun _ => ht, h.reader, hbudget⟩

/-- The Program that a fetch reads is one of the Programs, not the empty one read where none stands. -/
theorem program_mem_of_fetch {s : State} {i : Instr} (hf : s.program.cmd[s.ip]? = some i) :
    s.program ∈ s.programs := by
  unfold State.program at hf ⊢
  by_cases hc : s.cur < s.programs.length
  · rw [List.getD_eq_getElem _ _ hc]
    exact List.getElem_mem hc
  · rw [List.getD_eq_default _ _ (not_lt.mp hc)] at hf
    cases hf

/-- Executing the fetched instruction keeps the invariant: an instruction that advances is no RET, hence not the last of
its Program (10_state.md R36). -/
theorem exec_invariant {s t : State} {i : Instr} (h : Invariant s) (hf : s.program.cmd[s.ip]? = some i)
    (he : exec i s = .next t) : Invariant t := by
  obtain ⟨hi, u, hb, rfl⟩ | ⟨u, hb, hr⟩ := exec_cases he
  · refine invariant_advance (hb.invariant h) ?_
    rw [hb.ip, cmdCount_congr hb.programs hb.cur]
    exact succ_lt_length_of_ne_ret (h.programs _ (program_mem_of_fetch hf)) hf hi
  · exact hr.invariant (hb.invariant h)

/-- The wrapper's end keeps the invariant (70_reset_and_hazards.md R431). -/
theorem executeEnd_invariant {s : State} (h : Invariant s) (o : ExecOutcome) : Invariant (executeEnd s o) where
  memory := h.memory
  config := h.config
  programs := forall_mem_modify s.cur h.programs fun _ hp => poisoned_wf s.cfg o hp
  windows := forall_mem_modify s.cur h.windows fun _ _ => resultWindow_inside s.cfg o s.mem
  fetch := nofun
  reader := h.reader
  budget := h.budget

/-- The wrapper's start keeps the invariant: its Program is not empty (70_reset_and_hazards.md R430). -/
theorem executeStart_invariant {s : State} {p : Nat} {g : Program} (h : Invariant s) (hg : s.programs[p]? = some g) :
    Invariant (executeStart s p g) where
  memory := loadSegments_wf h.memory g
  config := h.config
  programs := h.programs
  windows := h.windows
  fetch _ := by
    have hprog : (executeStart s p g).program = g := by
      simp [State.program, executeStart, List.getD_eq_getElem?_getD, hg]
    unfold State.cmdCount
    rw [hprog]
    exact length_pos_of_programWellFormed (h.programs g (List.mem_of_getElem? hg))
  reader := h.reader
  budget := le_refl maxOps

/-- `prepare` adds a well-formed Program with the window (0, 0), and leaves a reader whose buffer is within its capacity
(30_encoding.md R100, R139, R140). -/
theorem hostPrepare_invariant {s : State} (h : Invariant s) (hp : s.phase = .idle) (code : List Byte) :
    Invariant (hostPrepare s code) := by
  have hidle : s.phase ≠ .running := by simp [hp]
  unfold hostPrepare prepare
  by_cases hlen : 1 ≤ code.length ∧ code.length ≤ s.cfg.maxCodeSize
  · rw [if_pos hlen]
    refine ⟨h.memory, h.config, ?_, ?_, fun hr => absurd hr hidle, ?_, h.budget⟩
    · exact List.forall_mem_append.mpr ⟨h.programs, List.forall_mem_singleton.mpr (prepareCode_wf s.cfg code)⟩
    · exact List.forall_mem_append.mpr ⟨h.windows, List.forall_mem_singleton.mpr (by decide : 0 + 0 < memSize)⟩
    · have hcap : s.cfg.maxCodeSize ≤ s.cfg.bitbufSize := of_decide_eq_true h.config
      change (prepareCode s.cfg code).reader.buf.length ≤ s.cfg.bitbufSize
      rw [prepareCode_buf]
      exact hlen.2.trans hcap
  · rw [if_neg hlen]
    exact ⟨h.memory, h.config, h.programs, h.windows, fun hr => absurd hr hidle, h.reader, h.budget⟩

/-- A set-up of a Program that leaves its instructions and its window keeps the invariant. -/
theorem hostSetProgram_invariant {s t : State} {p : Nat} {change : Program → Program} (h : Invariant s)
    (hp : s.phase = .idle) (hcmd : ∀ g, (change g).cmd = g.cmd)
    (hoff : ∀ g, (change g).filteredDataOffset = g.filteredDataOffset)
    (hsize : ∀ g, (change g).filteredDataSize = g.filteredDataSize) (ht : hostSetProgram s p change = .next t) :
    Invariant t := by
  rcases lt_or_ge p s.programs.length with hlt | hge
  · rw [hostSetProgram_of_lt hlt] at ht
    cases ht
    refine ⟨h.memory, h.config, ?_, ?_, by simp [hp], h.reader, h.budget⟩
    · exact forall_mem_modify p h.programs fun g hg => by rwa [hcmd]
    · exact forall_mem_modify p h.windows fun g hg => by rwa [hoff, hsize]
  · rw [hostSetProgram_of_le hge] at ht
    cases ht

theorem hostWriteMem_invariant {s t : State} {a : Nat} {data : List Byte} (h : Invariant s) (hp : s.phase = .idle)
    (ht : hostWriteMem s a data = .next t) : Invariant t := by
  rcases le_or_gt (a + data.length) memBytes with hle | hgt
  · rw [hostWriteMem_of_le hle] at ht
    cases ht
    exact ⟨writeBytes_wf data h.memory hle, h.config, h.programs, h.windows, by simp [hp], h.reader, h.budget⟩
  · rw [hostWriteMem_of_lt hgt] at ht
    cases ht

theorem hostExecute_invariant {s t : State} {p : Nat} (h : Invariant s) (ht : hostExecute s p = .next t) :
    Invariant t := by
  cases hg : s.programs[p]? with
  | none =>
    rw [hostExecute_of_none hg] at ht
    cases ht
  | some g =>
    rw [hostExecute_of_some hg] at ht
    cases ht
    exact executeStart_invariant h hg

/-- A served host request keeps the invariant (70_reset_and_hazards.md R437). -/
theorem serve_invariant {s t : State} {q : HostRequest} (h : Invariant s) (hp : s.phase = .idle)
    (ht : serve s q = .next t) : Invariant t := by
  cases q with
  | prepare code =>
    cases ht
    exact hostPrepare_invariant h hp code
  | setInitR p r =>
    exact hostSetProgram_invariant (change := fun g => { g with initR := r }) h hp (fun _ => rfl) (fun _ => rfl)
      (fun _ => rfl) ht
  | setGlobalData p d =>
    exact hostSetProgram_invariant (change := fun g => { g with globalData := d }) h hp (fun _ => rfl) (fun _ => rfl)
      (fun _ => rfl) ht
  | writeMem a d => exact hostWriteMem_invariant h hp ht
  | execute p => exact hostExecute_invariant h ht

theorem hostStep_invariant {s t : State} (h : Invariant s) (hp : s.phase = .idle) (ht : hostStep s = .next t) :
    Invariant t := by
  unfold hostStep at ht
  split at ht
  · cases ht
    exact h
  · next q qs _ =>
    have hs : Invariant (s.setHost qs) :=
      ⟨h.memory, h.config, h.programs, h.windows, h.fetch, h.reader, h.budget⟩
    exact serve_invariant hs hp ht

/-- Settles O58: the host's port, an instruction and the wrapper's end each keep the invariant. -/
theorem stepKeepsTheInvariant : Obligations.StepKeepsTheInvariant := by
  intro s t h ht
  obtain ⟨hp, hq⟩ | ⟨-, i, hf, he⟩ | ⟨o, -, rfl⟩ := step_cases ht
  · exact hostStep_invariant h hp hq
  · exact exec_invariant h hf he
  · exact executeEnd_invariant h o

/-! ## The instructions that leave F unchanged (10_state.md R38) -/

section
variable {s t : State} {w : Width} {op1 op2 : Operand}

theorem quietBinary_f {result : Word → Word → Word} (h : quietBinary w op1 op2 result s = .next t) : t.f = s.f := by
  cases h
  simp

theorem quietUnary_f {result : Word → Word} (h : quietUnary w op1 result s = .next t) : t.f = s.f := by
  cases h
  simp

theorem moveOp_f {wr : Width} {f : Word → Word} (h : moveOp wr w op1 op2 f s = .next t) : t.f = s.f := by
  cases h
  simp

theorem Redirects.f {u : State} (h : Redirects u t) : t.f = u.f := by
  cases h <;> rfl

theorem jumpIf_f {cond : Bool} (h : jumpIf cond op1 s = .next t) : t.f = s.f := by
  cases cond
  · cases h
    rfl
  · cases h
    exact (setIP_redirects s _).f

theorem execDiv_f {bm : Bool} (h : execDiv bm op1 op2 s = .next t) : t.f = s.f := by
  unfold execDiv at h
  split at h
  · cases h
    rfl
  · exact quietBinary_f h

theorem execXchg_f {bm : Bool} (h : execXchg bm op1 op2 s = .next t) : t.f = s.f := by
  cases h
  simp

theorem execPop_f (h : execPop op1 s = .next t) : t.f = s.f := by
  cases h
  simp

theorem execStandard_f (h : execStandard op1 s = .next t) : t.f = s.f := by
  unfold execStandard at h
  split at h <;> cases h <;> rfl

theorem execCall_f (h : execCall op1 s = .next t) : t.f = s.f := by
  cases h
  exact (setIP_redirects _ _).f

theorem execRet_f (h : execRet s = .next t) : t.f = s.f := by
  unfold execRet at h
  split at h
  · cases h
    rfl
  · obtain ⟨u, he, hr⟩ | ⟨-, -, he⟩ := setIP_cases s (loadTop s)
    · rw [he] at h
      cases h
      exact hr.f
    · rw [he] at h
      cases h
      rfl

end

/-- Settles O56: the instructions of R38's list are excluded by their opcode, and no other body writes F. -/
theorem otherInstructionsLeaveFlags : Obligations.OtherInstructionsLeaveFlags := by
  intro i s t hop h
  cases i with
  | mov | movb | movd | movzx | movsx => exact moveOp_f h
  | mul | addb | addd | subb | subd => exact quietBinary_f h
  | not | negb | negd => exact quietUnary_f h
  | incb | incd => exact quietUnary_f (result := fun v => v + 1#32) h
  | decb | decd => exact quietUnary_f (result := fun v => v - 1#32) h
  | jmp => exact jumpIf_f (cond := true) h
  | jz | jnz | js | jns | jb | jbe | ja | jae => exact jumpIf_f h
  | div => exact execDiv_f h
  | xchg => exact execXchg_f h
  | pop => exact execPop_f h
  | standard => exact execStandard_f h
  | call => exact execCall_f h
  | ret => exact execRet_f h
  | push | pusha | popa | pushf | print =>
    cases h
    rfl
  | cmp | add | sub | inc | dec | xor | and | or | test | shl | shr | sar | neg | popf | adc | sbb | cmpb | cmpd =>
    exact absurd (by simp [Instr.opcode]) hop

end Sys2Proof.Machine

/-! PROOF. Memory and operands: what reads and writes of memory and of operands do, that a canonical memory is fixed by
what it reads as, and what no instruction reaches: the Programs, and (STANDARD aside) the last guard byte.

The last guard byte is followed through two runs at once (`GuardTwins`): each operation that an instruction's body is
made of keeps the byte, reads alike in both runs, and leaves two states that differ in that byte at most. -/

namespace Sys2Proof.Machine

/-! ## Reads and writes of memory (20_memory.md R72, R74) -/

/-- Settles O17: each byte write in turn, by what a byte reads as after it. -/
theorem writesChangeOnlyTheirBytes : Obligations.WritesChangeOnlyTheirBytes := by
  intro m a b v
  refine ⟨by simp only [memWrite8, readByte_writeByte, byteOf, Nat.mul_zero], ?_⟩
  simp only [memWrite32, readByte_writeByte, byteOf]
  -- the model's last write is tested first, the statement's first byte first: at most one address matches
  by_cases h3 : b = a + 3
  · simp [h3]
  · by_cases h2 : b = a + 2
    · simp [h2]
    · by_cases h1 : b = a + 1
      · simp [h1]
      · simp [h1, h2, h3]

/-- Zero-extended: the value of a byte read (20_memory.md R72). -/
theorem memRead8_toNat (m : Memory) (a : Nat) : (memRead8 m a).toNat = (readByte m a).toNat := by
  have hlt := (readByte m a).isLt
  rw [memRead8, BitVec.toNat_setWidth, Nat.mod_eq_of_lt (by omega)]

/-- Settles O18, by the value of each read. -/
theorem readsAreLittleEndian : Obligations.ReadsAreLittleEndian := fun m a => ⟨memRead8_toNat m a, memRead32_toNat m a⟩

/-! ## The canonical form of memory -/

/-- An address without a cell reads as an unlisted byte. -/
theorem readByte_of_no_cell {m : Memory} {a : Nat} (h : ∀ c ∈ m, c.1 ≠ a) : readByte m a = unlistedByte := by
  induction m with
  | nil => rfl
  | cons c m ih =>
    obtain ⟨hc, hm⟩ := List.forall_mem_cons.mp h
    exact (if_neg hc).trans (ih hm)

theorem readByte_cons_self (c : Host.Cell) (m : Memory) : readByte (c :: m) c.1 = c.2 := if_pos rfl

theorem readByte_cons_ne {c : Host.Cell} {a : Nat} (h : c.1 ≠ a) (m : Memory) : readByte (c :: m) a = readByte m a :=
  if_neg h

/-- Where the first cell of a canonical memory stands, a memory that reads alike has a cell too. -/
theorem exists_cell_of_readByte_head {c : Host.Cell} {m m' : Memory} (hc : GoodCell c)
    (h : readByte (c :: m) c.1 = readByte m' c.1) : ∃ d ∈ m', d.1 = c.1 := by
  by_contra hno
  push Not at hno
  exact hc.2 (by rw [← readByte_cons_self c m, h, readByte_of_no_cell hno])

/-- The first address of a canonical memory is not above an address that has a cell. -/
theorem head_le_of_mem {c d : Host.Cell} {m : Memory} (hs : ∀ e ∈ m, c.1 < e.1) (hd : d ∈ c :: m) : c.1 ≤ d.1 := by
  rcases List.mem_cons.mp hd with rfl | hd
  · exact le_rfl
  · exact (hs d hd).le

/-- Settles O19, by induction on both lists: their first cells have one address, hence one byte, and their tails read
alike. -/
theorem canonicalMemoriesThatReadAlikeAreEqual : Obligations.CanonicalMemoriesThatReadAlikeAreEqual := by
  intro m
  induction m with
  | nil =>
    intro m' _ hwf' h
    cases m' with
    | nil => rfl
    | cons d m' =>
      obtain ⟨hd, -, -⟩ := (Memory.wf_cons _ _).mp hwf'
      obtain ⟨_, hmem, -⟩ := exists_cell_of_readByte_head hd (h d.1).symm
      cases hmem
  | cons c m ih =>
    intro m' hwf hwf' h
    obtain ⟨hc, hs, hm⟩ := (Memory.wf_cons _ _).mp hwf
    cases m' with
    | nil =>
      obtain ⟨_, hmem, -⟩ := exists_cell_of_readByte_head hc (h c.1)
      cases hmem
    | cons d m' =>
      obtain ⟨hd, hs', hm'⟩ := (Memory.wf_cons _ _).mp hwf'
      have haddr : c.1 = d.1 := by
        obtain ⟨e, he, hec⟩ := exists_cell_of_readByte_head hc (h c.1)
        obtain ⟨e', he', hed⟩ := exists_cell_of_readByte_head hd (h d.1).symm
        exact le_antisymm (hed ▸ head_le_of_mem hs he') (hec ▸ head_le_of_mem hs' he)
      have hbyte : c.2 = d.2 := by
        rw [← readByte_cons_self c m, h, haddr, readByte_cons_self]
      have htail : ∀ a, readByte m a = readByte m' a := by
        intro a
        by_cases ha : c.1 = a
        · subst ha
          rw [readByte_of_no_cell fun e he => (hs e he).ne',
            readByte_of_no_cell fun e he => haddr ▸ (hs' e he).ne']
        · rw [← readByte_cons_ne ha m, h, readByte_cons_ne (haddr ▸ ha)]
      rw [Prod.ext haddr hbyte, ih m' hm hm' htail]

/-! ## Operands (20_memory.md R71, R79, R80) -/

/-- Settles O20, by the value of a masked address. -/
theorem operandsResolveToMaskedAddresses : Obligations.OperandsResolveToMaskedAddresses := by
  intro rs r v d
  simp only [resolve, maskAddr_eq, BitVec.toNat_add, and_self]

/-- Bits 7:0 of a value, zero-extended (00_scope.md R25). -/
theorem lowPart_byte_toNat (v : Word) : (lowPart .byte v).toNat = v.toNat % 256 := by
  rw [lowPart, BitVec.toNat_and]
  exact Nat.and_two_pow_sub_one_eq_mod _ 8

/-- Settles O21: at 32 bits a read is the value itself, at 8 bits its low byte or the byte of memory. -/
theorem operandReadsTakeTheirWidth : Obligations.OperandReadsTakeTheirWidth := by
  intro s r v a
  exact ⟨rfl, lowPart_byte_toNat _, rfl, lowPart_byte_toNat _, rfl, memRead8_toNat s.mem a⟩

/-! ## What no instruction changes (20_memory.md R90, 10_state.md R43) -/

/-- The Programs, the choice of Program, the parameters, the decoder and the host's port are as they were. -/
def ProgramKept (s t : State) : Prop :=
  t.programs = s.programs ∧ t.cur = s.cur ∧ t.cfg = s.cfg ∧ t.reader = s.reader ∧ t.host = s.host ∧ t.reply = s.reply

theorem BodyKept.programKept {s u : State} (h : BodyKept s u) : ProgramKept s u :=
  ⟨h.programs, h.cur, h.cfg, h.reader, h.host, h.reply⟩

/-- Moving control on to IP + 1 keeps what the body kept. -/
theorem ProgramKept.advance {s u : State} (h : ProgramKept s u) : ProgramKept s (advance u) := h

/-- A transfer of control keeps what the body kept. -/
theorem ProgramKept.redirects {s u t : State} (h : ProgramKept s u) (hr : Redirects u t) : ProgramKept s t := by
  cases hr <;> exact h

/-- Settles O55: an instruction's body keeps them, and so does each way control goes on. -/
theorem noInstructionChangesAProgram : Obligations.NoInstructionChangesAProgram := by
  intro i s t h
  obtain ⟨-, u, hb, rfl⟩ | ⟨u, hb, hr⟩ := exec_cases h
  · exact hb.programKept.advance
  · exact hb.programKept.redirects hr

/-! ## The last guard byte (20_memory.md R73) -/

/-- The memories read alike at every address but the last guard byte's. -/
def AlikeButGuard (m m' : Memory) : Prop := ∀ a, a ≠ 0x40003 → readByte m' a = readByte m a

/-- `t` and `t'` are what one body makes of `s` and of a twin of `s`, a state that differs from `s` in the last guard
byte at most: that byte, and any past it, is in `t` as in `s`, and `t` and `t'` are twins again. -/
structure GuardTwins (s t t' : State) : Prop where
  kept : ∀ a, 0x40003 ≤ a → readByte t.mem a = readByte s.mem a
  twin : t' = t.setMem t'.mem
  alike : AlikeButGuard t.mem t'.mem

/-- Both runs complete, and leave twins. -/
def RunsAlike (s : State) (x y : StepResult) : Prop := ∃ t t', x = .next t ∧ y = .next t' ∧ GuardTwins s t t'

/-! ### Memory -/

/-- A store at a formed address ends before the last guard byte. -/
theorem readByte_of_stored_guard {m m' : Memory} {a b : Nat} {w : Width} {v : Word} (h : StoredAt m m' a w v)
    (ha : a < memSize) (hb : 0x40003 ≤ b) : readByte m' b = readByte m b := by
  have hw : w.bytes ≤ 4 := by cases w <;> decide
  have hm : a < 0x40000 := ha
  rw [h b, if_neg (by omega)]

theorem AlikeButGuard.stored {m m' n n' : Memory} {a : Nat} {w : Width} {v : Word} (h : AlikeButGuard m m')
    (hs : StoredAt m n a w v) (hs' : StoredAt m' n' a w v) : AlikeButGuard n n' := by
  intro b hb
  rw [hs b, hs' b, h b hb]

/-- A dword read at a formed address ends before the last guard byte. -/
theorem AlikeButGuard.memRead32 {m m' : Memory} {a : Nat} (h : AlikeButGuard m m') (ha : a < memSize) :
    memRead32 m' a = memRead32 m a := by
  have hm : a < 0x40000 := ha
  exact memRead32_congr fun i hi => h _ (by omega)

theorem AlikeButGuard.memRead8 {m m' : Memory} {a : Nat} (h : AlikeButGuard m m') (ha : a < memSize) :
    memRead8 m' a = memRead8 m a := by
  have hm : a < 0x40000 := ha
  rw [Machine.memRead8, Machine.memRead8, h a (by omega)]

/-! ### The operations that bodies are made of -/

section
variable {s t t' : State}

theorem GuardTwins.refl {m : Memory} (h : AlikeButGuard s.mem m) : GuardTwins s s (s.setMem m) :=
  ⟨fun _ _ => rfl, rfl, h⟩

theorem GuardTwins.regs (h : GuardTwins s t t') : t'.regs = t.regs := by rw [h.twin]; rfl

theorem GuardTwins.reg (h : GuardTwins s t t') (r : Reg) : t'.reg r = t.reg r := by rw [h.twin]; rfl

/-- An update that neither reads nor writes memory. -/
theorem GuardTwins.map {g : State → State} (h : GuardTwins s t t') (hmem : ∀ u, (g u).mem = u.mem)
    (hset : ∀ u m, g (u.setMem m) = (g u).setMem m) : GuardTwins s (g t) (g t') where
  kept a ha := by rw [hmem]; exact h.kept a ha
  twin := by rw [hmem, ← hset, ← h.twin]
  alike := by rw [hmem, hmem]; exact h.alike

theorem GuardTwins.setF (h : GuardTwins s t t') (v : Word) : GuardTwins s (t.setF v) (t'.setF v) :=
  h.map (g := (State.setF · v)) (fun _ => rfl) fun _ _ => rfl

theorem GuardTwins.setRegs (h : GuardTwins s t t') (rs : Regs) : GuardTwins s (t.setRegs rs) (t'.setRegs rs) :=
  h.map (g := (State.setRegs · rs)) (fun _ => rfl) fun _ _ => rfl

theorem GuardTwins.setReg (h : GuardTwins s t t') (r : Reg) (v : Word) : GuardTwins s (t.setReg r v) (t'.setReg r v) :=
  h.map (g := (State.setReg · r v)) (fun _ => rfl) fun _ _ => rfl

theorem GuardTwins.decSp (h : GuardTwins s t t') : GuardTwins s (decSp t) (decSp t') :=
  h.map (fun _ => rfl) fun _ _ => rfl

theorem GuardTwins.incSp (h : GuardTwins s t t') : GuardTwins s (incSp t) (incSp t') :=
  h.map (fun _ => rfl) fun _ _ => rfl

theorem GuardTwins.advance (h : GuardTwins s t t') : GuardTwins s (advance t) (advance t') :=
  h.map (fun _ => rfl) fun _ _ => rfl

theorem GuardTwins.finish (h : GuardTwins s t t') (o : ExecOutcome) : GuardTwins s (finish t o) (finish t' o) :=
  h.map (g := (Machine.finish · o)) (fun _ => rfl) fun _ _ => rfl

/-- One value stored in both at one formed address. -/
theorem GuardTwins.stored {m m' : Memory} {a : Nat} {w : Width} {v : Word} (h : GuardTwins s t t')
    (ha : a < memSize) (hm : StoredAt t.mem m a w v) (hm' : StoredAt t'.mem m' a w v) :
    GuardTwins s (t.setMem m) (t'.setMem m') where
  kept b hb := (readByte_of_stored_guard hm ha hb).trans (h.kept b hb)
  twin := by rw [h.twin]; rfl
  alike := h.alike.stored hm hm'

theorem GuardTwins.readOp (h : GuardTwins s t t') (rs : Regs) (op : Operand) (w : Width) :
    readOp t' (resolve rs op) w = readOp t (resolve rs op) w := by
  cases hl : resolve rs op with
  | reg r => simp only [Machine.readOp, h.reg]
  | imm v => rfl
  | addr a =>
    cases w with
    | byte => exact h.alike.memRead8 (resolve_addr_lt hl)
    | dword => exact h.alike.memRead32 (resolve_addr_lt hl)

theorem GuardTwins.loadTop (h : GuardTwins s t t') : loadTop t' = loadTop t := by
  rw [Machine.loadTop, h.reg, h.alike.memRead32 (maskAddr_lt _), Machine.loadTop]

theorem GuardTwins.writeOp (h : GuardTwins s t t') (rs : Regs) (op : Operand) (w : Width) (v : Word) :
    GuardTwins s (writeOp t (resolve rs op) w v) (writeOp t' (resolve rs op) w v) := by
  cases hl : resolve rs op with
  | reg r => exact h.map (g := (Machine.writeOp · (.reg r) w v)) (fun _ => rfl) fun _ _ => rfl
  | imm _ => exact h
  | addr a =>
    cases w with
    | byte => exact h.stored (resolve_addr_lt hl) (memWrite8_stored _ _ v) (memWrite8_stored _ _ v)
    | dword => exact h.stored (resolve_addr_lt hl) (memWrite32_stored _ _ v) (memWrite32_stored _ _ v)

theorem GuardTwins.storeTop (h : GuardTwins s t t') (v : Word) : GuardTwins s (storeTop t v) (storeTop t' v) := by
  have ht' := storeTop_stored t' v
  rw [h.reg] at ht'
  exact h.stored (maskAddr_lt _) (storeTop_stored t v) ht'

/-- The stores of PUSHA, one after the other (44_stack.md R334). -/
theorem GuardTwins.pushWords (vs : List Word) : ∀ {t t' : State} (sp : Word), GuardTwins s t t' →
    GuardTwins s (t.setMem (pushWords t.mem sp vs)) (t'.setMem (pushWords t'.mem sp vs)) := by
  induction vs with
  | nil => exact fun _ h => h
  | cons v vs ih =>
    exact fun sp h => ih (sp - 4#32) (h.stored (maskAddr_lt sp) (memWrite32_stored _ _ v) (memWrite32_stored _ _ v))

/-- `setIP` neither reads nor writes memory: both runs continue, or both end (43_control.md R300). -/
theorem GuardTwins.setIP_cases (h : GuardTwins s t t') (target : Word) :
    ∃ u u', GuardTwins s u u' ∧
      ((setIP t target = .continued u ∧ setIP t' target = .continued u') ∨
       (setIP t target = .ended u ∧ setIP t' target = .ended u')) := by
  have hcount : t'.cmdCount = t.cmdCount := by rw [h.twin]; rfl
  have hbudget : t'.budget = t.budget := by rw [h.twin]; rfl
  have hspent : GuardTwins s (t.setBudget (t.budget - 1)) (t'.setBudget (t.budget - 1)) :=
    h.map (g := (State.setBudget · (t.budget - 1))) (fun _ => rfl) fun _ _ => rfl
  simp only [setIP, hcount, hbudget, State.setBudget_budget]
  by_cases ht : t.cmdCount ≤ target.toNat
  · simp only [if_pos ht]
    exact ⟨_, _, h.finish .finished, .inr ⟨rfl, rfl⟩⟩
  · simp only [if_neg ht]
    by_cases hb : t.budget - 1 ≤ 0
    · exact ⟨_, _, hspent.finish .exhausted, .inr ⟨if_pos hb, if_pos hb⟩⟩
    · exact ⟨_, _, hspent.map (g := (State.setIp · target.toNat)) (fun _ => rfl) fun _ _ => rfl,
        .inl ⟨if_neg hb, if_neg hb⟩⟩

theorem GuardTwins.setIP (h : GuardTwins s t t') (target : Word) :
    GuardTwins s (setIP t target).state (setIP t' target).state := by
  obtain ⟨u, u', hu, ⟨he, he'⟩ | ⟨he, he'⟩⟩ := h.setIP_cases target
  all_goals
    rw [he, he']
    exact hu

end

/-! ### The shapes of instruction bodies -/

section
variable {s u : State} {w : Width} {op1 op2 : Operand}

theorem GuardTwins.runsAlike {t t' : State} (h : GuardTwins s t t') : RunsAlike s (.next t) (.next t') :=
  ⟨t, t', rfl, rfl, h⟩

theorem GuardTwins.aluBinary {result flags : Word → Word → Word} (h : GuardTwins s s u) :
    RunsAlike s (aluBinary w op1 op2 result flags s) (aluBinary w op1 op2 result flags u) := by
  simp only [Machine.aluBinary, h.regs, h.readOp]
  exact ((h.writeOp _ _ _ _).setF _).advance.runsAlike

theorem GuardTwins.quietBinary {result : Word → Word → Word} (h : GuardTwins s s u) :
    RunsAlike s (quietBinary w op1 op2 result s) (quietBinary w op1 op2 result u) := by
  simp only [Machine.quietBinary, h.regs, h.readOp]
  exact (h.writeOp _ _ _ _).advance.runsAlike

theorem GuardTwins.flagsOnly {flags : Word → Word → Word} (h : GuardTwins s s u) :
    RunsAlike s (flagsOnly w op1 op2 flags s) (flagsOnly w op1 op2 flags u) := by
  simp only [Machine.flagsOnly, h.regs, h.readOp]
  exact (h.setF _).advance.runsAlike

theorem GuardTwins.aluUnary {result flags : Word → Word} (h : GuardTwins s s u) :
    RunsAlike s (aluUnary w op1 result flags s) (aluUnary w op1 result flags u) := by
  simp only [Machine.aluUnary, h.regs, h.readOp]
  exact ((h.writeOp _ _ _ _).setF _).advance.runsAlike

theorem GuardTwins.quietUnary {result : Word → Word} (h : GuardTwins s s u) :
    RunsAlike s (quietUnary w op1 result s) (quietUnary w op1 result u) := by
  simp only [Machine.quietUnary, h.regs, h.readOp]
  exact (h.writeOp _ _ _ _).advance.runsAlike

theorem GuardTwins.moveOp {wr : Width} {f : Word → Word} (h : GuardTwins s s u) :
    RunsAlike s (moveOp wr w op1 op2 f s) (moveOp wr w op1 op2 f u) := by
  simp only [Machine.moveOp, h.regs, h.readOp]
  exact (h.writeOp _ _ _ _).advance.runsAlike

theorem GuardTwins.jumpIf {cond : Bool} (h : GuardTwins s s u) :
    RunsAlike s (jumpIf cond op1 s) (jumpIf cond op1 u) := by
  cases cond with
  | false => exact h.advance.runsAlike
  | true =>
    simp only [Machine.jumpIf, if_pos, h.regs, h.readOp]
    exact (h.setIP _).runsAlike

theorem GuardTwins.execDiv {bm : Bool} (h : GuardTwins s s u) :
    RunsAlike s (execDiv bm op1 op2 s) (execDiv bm op1 op2 u) := by
  simp only [Machine.execDiv, h.regs, h.readOp]
  split
  · exact h.advance.runsAlike
  · exact h.quietBinary

theorem GuardTwins.execXchg {bm : Bool} (h : GuardTwins s s u) :
    RunsAlike s (execXchg bm op1 op2 s) (execXchg bm op1 op2 u) := by
  simp only [Machine.execXchg, h.regs, h.readOp]
  exact ((h.writeOp _ _ _ _).writeOp _ _ _ _).advance.runsAlike

theorem GuardTwins.execPush (h : GuardTwins s s u) : RunsAlike s (execPush op1 s) (execPush op1 u) := by
  simp only [Machine.execPush, h.regs, h.decSp.readOp]
  exact (h.decSp.storeTop _).advance.runsAlike

theorem GuardTwins.execPop (h : GuardTwins s s u) : RunsAlike s (execPop op1 s) (execPop op1 u) := by
  simp only [Machine.execPop, h.regs, h.loadTop]
  exact (h.writeOp _ _ _ _).incSp.advance.runsAlike

theorem GuardTwins.execPusha (h : GuardTwins s s u) : RunsAlike s (execPusha s) (execPusha u) := by
  simp only [Machine.execPusha, h.regs, h.reg]
  exact ((h.pushWords _ _).setReg _ _).advance.runsAlike

theorem GuardTwins.execPopa (h : GuardTwins s s u) : RunsAlike s (execPopa s) (execPopa u) := by
  simp only [Machine.execPopa, h.reg, h.alike.memRead32 (maskAddr_lt _)]
  exact (h.setRegs _).advance.runsAlike

theorem GuardTwins.execPopf (h : GuardTwins s s u) : RunsAlike s (execPopf s) (execPopf u) := by
  simp only [Machine.execPopf, h.loadTop]
  exact (h.setF _).incSp.advance.runsAlike

theorem GuardTwins.execRet (h : GuardTwins s s u) : RunsAlike s (execRet s) (execRet u) := by
  simp only [Machine.execRet, h.reg, h.loadTop]
  split
  · exact (h.finish _).runsAlike
  · obtain ⟨t, t', ht, ⟨he, he'⟩ | ⟨he, he'⟩⟩ := h.setIP_cases (Machine.loadTop s)
    · simp only [he, he']
      exact ht.incSp.runsAlike
    · simp only [he, he']
      exact ht.runsAlike

end

/-- The index that CALL pushes is the same in twins, whose memory the target is read from after the push
(43_control.md R312). -/
theorem GuardTwins.execCall {s u : State} {op1 : Operand} (h : GuardTwins s s u) :
    RunsAlike s (execCall op1 s) (execCall op1 u) := by
  have hip : u.ip = s.ip := by rw [h.twin]; rfl
  have hpush := h.decSp.storeTop (BitVec.ofNat 32 (s.ip + 1))
  simp only [Machine.execCall, h.regs, hip, hpush.readOp]
  exact (hpush.setIP _).runsAlike

/-- Every instruction but STANDARD runs alike from twins. -/
theorem exec_runsAlike {i : Instr} {s : State} {m : Memory} (hi : i.isStandard = false)
    (h : GuardTwins s s (s.setMem m)) : RunsAlike s (exec i s) (exec i (s.setMem m)) := by
  cases i with
  | mov | movb | movd | movzx | movsx => exact h.moveOp
  | add | sub | adc | sbb | shl | shr | sar => exact h.aluBinary
  | and | or | xor =>
    simp only [exec, execAnd, execOr, execXor]
    exact h.aluBinary
  | inc | dec | neg => exact h.aluUnary
  | cmp | cmpb | cmpd => exact h.flagsOnly
  | test => exact h.flagsOnly (flags := fun v1 v2 => zs (v1 &&& v2))
  | mul | addb | addd | subb | subd => exact h.quietBinary
  | not | negb | negd => exact h.quietUnary
  | incb | incd => exact h.quietUnary (result := fun v => v + 1#32)
  | decb | decd => exact h.quietUnary (result := fun v => v - 1#32)
  | jmp => exact h.jumpIf (cond := true)
  | jz | jnz | js | jns | jb | jbe | ja | jae => exact h.jumpIf
  | div => exact h.execDiv
  | xchg => exact h.execXchg
  | push => exact h.execPush
  | pop => exact h.execPop
  | pusha => exact h.execPusha
  | popa => exact h.execPopa
  | pushf => exact (h.decSp.storeTop s.f).advance.runsAlike
  | popf => exact h.execPopf
  | print => exact h.advance.runsAlike
  | call => exact h.execCall
  | ret => exact h.execRet
  | standard => cases hi

/-- Settles O22: the two states are twins, and the instruction leaves twins. -/
theorem onlyStandardReachesTheLastGuardByte : Obligations.OnlyStandardReachesTheLastGuardByte := by
  intro i s m hi hm
  obtain ⟨t, t', he, he', ht⟩ := exec_runsAlike hi (GuardTwins.refl hm)
  exact ⟨t, t', he, he', ht.kept, ht.twin, ht.alike⟩

end Sys2Proof.Machine

/-! PROOF. The bit reader and the fields it reads: 16 stream bits as a number, and from it what each form of a
variable-length integer, of an operand and of the opcode field decodes to.

Bits and numbers meet in `peek16_of_startsWith`; each field decoder is then said once over the number that `peek16`
returns (`readVLQ_eq`, `decodeOperand_eq`, `decodeOpcode_eq`), so that its forms are told apart by arithmetic. -/

namespace Sys2Proof

/-! ## Stream bits as a number -/

/-- The number that a list of bits writes, the first bit the most significant (00_scope.md R21). -/
def bitsNat : List Bool → Nat
  | [] => 0
  | b :: bs => b.toNat * 2 ^ bs.length + bitsNat bs

theorem bitsNat_append (as bs : List Bool) : bitsNat (as ++ bs) = bitsNat as * 2 ^ bs.length + bitsNat bs := by
  induction as with
  | nil => simp [bitsNat]
  | cons a as ih =>
    simp only [List.cons_append, bitsNat, ih, List.length_append, pow_add]
    ring

theorem bitsNat_lt (bs : List Bool) : bitsNat bs < 2 ^ bs.length := by
  induction bs with
  | nil => simp [bitsNat]
  | cons b bs ih =>
    have := b.toNat_lt
    simp only [bitsNat, List.length_cons, pow_succ]
    nlinarith

@[simp] theorem bitsMSB_length (n : Nat) (v : Word) : (bitsMSB n v).length = n := by
  induction n <;> simp [bitsMSB, *]

@[simp] theorem bitsNat_bitsMSB (n : Nat) (v : Word) : bitsNat (bitsMSB n v) = v.toNat % 2 ^ n := by
  induction n with
  | zero => simp [bitsMSB, bitsNat, Nat.mod_one]
  | succ n ih =>
    rw [bitsMSB, bitsNat, ih, bitsMSB_length, Nat.mod_pow_succ, BitVec.getLsbD, Nat.toNat_testBit, add_comm, mul_comm]

theorem bitsMSB_add (m n : Nat) (v : Word) : bitsMSB (m + n) v = bitsMSB m (v >>> n) ++ bitsMSB n v := by
  induction m with
  | zero => simp [bitsMSB]
  | succ m ih => simp [Nat.succ_add, bitsMSB, ih, Nat.add_comm n m]

theorem bitsMSB_eq_map (n : Nat) (v : Word) : bitsMSB n v = (List.range n).map fun j => v.getLsbD (n - 1 - j) := by
  induction n with
  | zero => rfl
  | succ n ih =>
    rw [bitsMSB, ih, List.range_succ_eq_map, List.map_cons, List.map_map]
    congr 1
    exact List.map_congr_left fun j hj => congrArg _ (by have := List.mem_range.mp hj; simp; omega)

/-! ## What the stream begins with -/

/-- The next `n` stream bits. -/
def BitReader.window (r : BitReader) (n : Nat) : List Bool := (List.range n).map fun j => r.bitAt (r.pos + j)

@[simp] theorem BitReader.window_length (r : BitReader) (n : Nat) : (r.window n).length = n := by
  simp [BitReader.window]

theorem BitReader.startsWith_iff {r : BitReader} {bs : List Bool} : r.startsWith bs ↔ r.window bs.length = bs := by
  rw [List.ext_getElem_iff]
  simp only [window_length, true_and, BitReader.startsWith]
  refine forall_congr' fun j => ⟨fun h hj _ => ?_, fun h hj => ?_⟩
  · simpa [BitReader.window, hj] using h hj
  · simpa [BitReader.window, hj] using h hj hj

theorem BitReader.window_add (r : BitReader) (m n : Nat) : r.window (m + n) = r.window m ++ (r.advance m).window n := by
  simp [BitReader.window, List.range_add, BitReader.advance, BitReader.bitAt, BitReader.byteAt, Nat.add_assoc,
    Function.comp_def]

theorem BitReader.startsWith_append {r : BitReader} {as bs : List Bool} :
    r.startsWith (as ++ bs) ↔ r.startsWith as ∧ (r.advance as.length).startsWith bs := by
  simp only [startsWith_iff, List.length_append, window_add]
  exact ⟨fun h => List.append_inj h (by simp), fun ⟨ha, hb⟩ => by rw [ha, hb]⟩

@[simp] theorem BitReader.advance_advance (r : BitReader) (m n : Nat) :
    (r.advance m).advance n = r.advance (m + n) := by
  simp [BitReader.advance, Nat.add_assoc]

/-! ## `peek16` (30_encoding.md R101) -/

/-- A bit of three bytes put one after the other, the first byte highest. -/
theorem getLsbD_threeBytes (x y z : Byte) {i : Nat} (hi : i < 24) :
    ((x.setWidth 32 <<< 16) ||| (y.setWidth 32 <<< 8) ||| z.setWidth 32 : Word).getLsbD i =
      if 16 ≤ i then x.getLsbD (i - 16) else if 8 ≤ i then y.getLsbD (i - 8) else z.getLsbD i := by
  have hz (b : Byte) {n : Nat} (hn : 8 ≤ n) : b.getLsbD n = false := BitVec.getLsbD_of_ge b n hn
  have h32 : i < 32 := by omega
  simp only [BitVec.getLsbD_or, BitVec.getLsbD_shiftLeft, BitVec.getLsbD_setWidth]
  split_ifs with h16 h8
  · have h8 : ¬ i < 8 := by omega
    have hx : i - 16 < 32 := by omega
    simp [h32, hx, h8, Nat.not_lt.mpr h16, hz y (n := i - 8) (by omega), hz z (n := i) (by omega)]
  · have hy : i - 8 < 32 := by omega
    simp [h32, hy, hz z h8, Nat.lt_of_not_le h16, Nat.not_lt.mpr h8]
  · simp [h32, Nat.lt_of_not_le h16, Nat.lt_of_not_le h8]

theorem peek16_lt (r : BitReader) : r.peek16.toNat < 65536 := by
  unfold BitReader.peek16
  dsimp only
  rw [BitVec.toNat_and]
  exact lt_of_le_of_lt Nat.and_le_right (by decide)

theorem peek16_getLsbD (r : BitReader) {j : Nat} (hj : j < 16) : r.peek16.getLsbD (15 - j) = r.bitAt (r.pos + j) := by
  have hmask : (0xFFFF#32).getLsbD (15 - j) = true := by interval_cases j <;> rfl
  unfold BitReader.peek16 BitReader.bitAt
  dsimp only
  rw [BitVec.getLsbD_and, hmask, Bool.and_true, BitVec.getLsbD_ushiftRight, getLsbD_threeBytes _ _ _ (by omega)]
  split_ifs with h16 h8
  · rw [show (r.pos + j) / 8 = r.pos / 8 by omega]
    congr 1
    omega
  · rw [show (r.pos + j) / 8 = r.pos / 8 + 1 by omega]
    congr 1
    omega
  · rw [show (r.pos + j) / 8 = r.pos / 8 + 2 by omega]
    congr 1
    omega

/-- Settles O1: each of the 16 bits lies in one of the three bytes that `peek16` joins. -/
theorem peekReturnsSixteenStreamBits : Obligations.PeekReturnsSixteenStreamBits :=
  fun r => ⟨fun _ hj => peek16_getLsbD r hj, peek16_lt r⟩

theorem peek16_toNat (r : BitReader) : r.peek16.toNat = bitsNat (r.window 16) := by
  have hw : bitsMSB 16 r.peek16 = r.window 16 := by
    rw [bitsMSB_eq_map]
    exact List.map_congr_left fun j hj => peek16_getLsbD r (List.mem_range.mp hj)
  rw [← hw, bitsNat_bitsMSB, Nat.mod_eq_of_lt (b := 2 ^ 16) (peek16_lt r)]

/-- The bits the stream begins with are the high bits of what `peek16` returns. -/
theorem peek16_of_startsWith {r : BitReader} {bs : List Bool} (h : r.startsWith bs) (hl : bs.length ≤ 16) :
    r.peek16.toNat / 2 ^ (16 - bs.length) = bitsNat bs := by
  have hw : r.window 16 = bs ++ (r.advance bs.length).window (16 - bs.length) := by
    rw [← BitReader.startsWith_iff.mp h]
    simp [← BitReader.window_add, Nat.add_sub_cancel' hl]
  have hlt := bitsNat_lt ((r.advance bs.length).window (16 - bs.length))
  rw [BitReader.window_length] at hlt
  rw [peek16_toNat, hw, bitsNat_append, BitReader.window_length, mul_comm, Nat.mul_add_div (by positivity),
    Nat.div_eq_of_lt hlt, add_zero]

/-! ## Fields of a word -/

/-- A word under a mask of `n` bits from bit `k` up. -/
theorem toNat_and_field (d m : Word) (n k : Nat) (hm : m.toNat = (2 ^ n - 1) * 2 ^ k) :
    (d &&& m).toNat = d.toNat / 2 ^ k % 2 ^ n * 2 ^ k := by
  rw [BitVec.toNat_and, hm]
  refine Nat.eq_of_testBit_eq fun j => ?_
  simp only [Nat.testBit_and, Nat.testBit_mul_two_pow, Nat.testBit_two_pow_sub_one, Nat.testBit_mod_two_pow,
    Nat.testBit_div_two_pow]
  by_cases hk : k ≤ j
  · simp [hk, Bool.and_comm]
  · simp [hk]

theorem and_field_eq_iff {d m c : Word} (n k : Nat) (hm : m.toNat = (2 ^ n - 1) * 2 ^ k) :
    d &&& m = c ↔ d.toNat / 2 ^ k % 2 ^ n * 2 ^ k = c.toNat := by
  rw [← BitVec.toNat_inj, toNat_and_field d m n k hm]

theorem shift_and_field (d m : Word) (n k : Nat) (hm : m.toNat = 2 ^ n - 1) :
    (d >>> k) &&& m = BitVec.ofNat 32 (d.toNat / 2 ^ k % 2 ^ n) := by
  have h := toNat_and_field (d >>> k) m n 0 (by simpa using hm)
  rw [pow_zero, Nat.div_one, mul_one, BitVec.toNat_ushiftRight, Nat.shiftRight_eq_div_pow] at h
  rw [← h, BitVec.ofNat_toNat, BitVec.setWidth_eq]

theorem or_eq_add {a b : Word} (n : Nat) (ha : 2 ^ n ∣ a.toNat) (hb : b.toNat < 2 ^ n) :
    a ||| b = BitVec.ofNat 32 (a.toNat + b.toNat) := by
  obtain ⟨c, hc⟩ := ha
  rw [hc, Nat.two_pow_add_eq_or_of_lt hb, ← hc, ← BitVec.toNat_or, BitVec.ofNat_toNat, BitVec.setWidth_eq]

theorem peek16_append (q q' : BitReader) : (q.peek16 <<< 16) ||| q'.peek16 =
    BitVec.ofNat 32 (q.peek16.toNat * 2 ^ 16 + q'.peek16.toNat) := by
  have hq : (q.peek16 <<< 16).toNat = q.peek16.toNat * 2 ^ 16 := by
    have := peek16_lt q
    rw [BitVec.toNat_shiftLeft, Nat.shiftLeft_eq, Nat.mod_eq_of_lt (by omega)]
  rw [or_eq_add 16 (hq ▸ Nat.dvd_mul_left _ _) (peek16_lt q'), hq]

theorem ofNat_eq_of_eq_toNat {n : Nat} {v : Word} (h : n = v.toNat) : BitVec.ofNat 32 n = v := by
  rw [h, BitVec.ofNat_toNat, BitVec.setWidth_eq]

/-! ## Variable-length integers (30_encoding.md R105) -/

/-- The value of the negative form: eight bits below 24 one bits. -/
theorem or_byte_field (x : Nat) :
    0xFFFFFF00#32 ||| BitVec.ofNat 32 (x % 2 ^ 8) = BitVec.ofNat 32 (0xFFFFFF00 + x % 2 ^ 8) := by
  have hx : (BitVec.ofNat 32 (x % 2 ^ 8)).toNat = x % 2 ^ 8 := by
    rw [BitVec.toNat_ofNat]
    omega
  rw [or_eq_add 8 (by decide) (by omega), hx]
  rfl

/-- `ReadVLQ` over the numbers that `peek16` returns: the first two bits tell four forms apart, the next four a
fifth. -/
theorem readVLQ_eq (r : BitReader) : readVLQ r =
    if r.peek16.toNat / 2 ^ 14 = 0 then (BitVec.ofNat 32 (r.peek16.toNat / 2 ^ 10 % 2 ^ 4), r.advance 6)
    else if r.peek16.toNat / 2 ^ 14 = 1 then
      if r.peek16.toNat / 2 ^ 10 % 2 ^ 4 = 0 then
        (BitVec.ofNat 32 (0xFFFFFF00 + r.peek16.toNat / 2 ^ 2 % 2 ^ 8), r.advance 14)
      else (BitVec.ofNat 32 (r.peek16.toNat / 2 ^ 6 % 2 ^ 8), r.advance 10)
    else if r.peek16.toNat / 2 ^ 14 = 2 then ((r.advance 2).peek16, r.advance 18)
    else (BitVec.ofNat 32 ((r.advance 2).peek16.toNat * 2 ^ 16 + (r.advance 18).peek16.toNat), r.advance 34) := by
  have hd := peek16_lt r
  have h00 : r.peek16 &&& 0xC000#32 = 0x0000#32 ↔ r.peek16.toNat / 2 ^ 14 = 0 := by
    rw [and_field_eq_iff 2 14 rfl]; simp; omega
  have h01 : r.peek16 &&& 0xC000#32 = 0x4000#32 ↔ r.peek16.toNat / 2 ^ 14 = 1 := by
    rw [and_field_eq_iff 2 14 rfl]; simp; omega
  have h10 : r.peek16 &&& 0xC000#32 = 0x8000#32 ↔ r.peek16.toNat / 2 ^ 14 = 2 := by
    rw [and_field_eq_iff 2 14 rfl]; simp; omega
  have hneg : r.peek16 &&& 0x3C00#32 = 0#32 ↔ r.peek16.toNat / 2 ^ 10 % 2 ^ 4 = 0 := by
    rw [and_field_eq_iff 4 10 rfl]; simp
  unfold readVLQ
  simp only [h00, h01, h10, hneg, shift_and_field _ 0xF#32 4 10 rfl, shift_and_field _ 0xFF#32 8 2 rfl,
    shift_and_field _ 0xFF#32 8 6 rfl, BitReader.advance_advance, or_byte_field, peek16_append]

/-- Settles O2: the bits of a form fix the number that `peek16` returns, and with it the branch and the value. -/
theorem vlqFormsReadTheirValue : Obligations.VlqFormsReadTheirValue := by
  intro r v
  refine ⟨fun hv h => ?_, fun hlo hhi h => ?_, fun hv h => ?_, fun hv h => ?_, fun h => ?_⟩
  · have hp : r.peek16.toNat / 2 ^ 10 = v.toNat % 2 ^ 4 := by
      simpa [bitsNat] using peek16_of_startsWith h (by simp)
    rw [readVLQ_eq, if_pos (by omega), ofNat_eq_of_eq_toNat (v := v) (by omega)]
  · have hp : r.peek16.toNat / 2 ^ 6 = 1 * 2 ^ 8 + v.toNat % 2 ^ 8 := by
      simpa [bitsNat] using peek16_of_startsWith h (by simp)
    rw [readVLQ_eq, if_neg (by omega), if_pos (by omega), if_neg (by omega), ofNat_eq_of_eq_toNat (v := v) (by omega)]
  · have hp : r.peek16.toNat / 2 ^ 2 = 0b010000 * 2 ^ 8 + v.toNat % 2 ^ 8 := by
      simpa [bitsNat] using peek16_of_startsWith h (by simp)
    rw [readVLQ_eq, if_neg (by omega), if_pos (by omega), if_pos (by omega), ofNat_eq_of_eq_toNat (v := v) (by omega)]
  · obtain ⟨hform, hval⟩ := BitReader.startsWith_append.mp h
    have hp : r.peek16.toNat / 2 ^ 14 = 0b10 := peek16_of_startsWith hform (by simp)
    have hv' : (r.advance 2).peek16.toNat = v.toNat % 2 ^ 16 := by simpa using peek16_of_startsWith hval (by simp)
    rw [readVLQ_eq, if_neg (by omega), if_neg (by omega), if_pos (by omega)]
    exact congrArg (·, _) (BitVec.eq_of_toNat_eq (by omega))
  · rw [bitsMSB_add 16 16] at h
    obtain ⟨hform, hval⟩ := BitReader.startsWith_append.mp h
    obtain ⟨hhigh, hlow⟩ := BitReader.startsWith_append.mp hval
    have hp : r.peek16.toNat / 2 ^ 14 = 0b11 := peek16_of_startsWith hform (by simp)
    have hh : (r.advance 2).peek16.toNat = v.toNat / 2 ^ 16 % 2 ^ 16 := by
      simpa [Nat.shiftRight_eq_div_pow] using peek16_of_startsWith hhigh (by simp)
    have hl : (r.advance 18).peek16.toNat = v.toNat % 2 ^ 16 := by simpa using peek16_of_startsWith hlow (by simp)
    rw [readVLQ_eq, if_neg (by omega), if_neg (by omega), if_neg (by omega),
      ofNat_eq_of_eq_toNat (v := v) (by omega)]

/-! ## Operands (30_encoding.md R110 to R114) -/

@[simp] theorem Reg.ofField_field (q : Reg) : Reg.ofField q.field = q := by cases q <;> rfl

@[simp] theorem encodeReg_length (q : Reg) : (encodeReg q).length = 3 := bitsMSB_length 3 _

@[simp] theorem bitsNat_encodeReg (q : Reg) : bitsNat (encodeReg q) = q.field := by cases q <;> rfl

/-- `DecodeOperand` over the number that `peek16` returns: its first four bits tell the five forms apart. -/
theorem decodeOperand_eq (bi : ByteImm) (bm : Bool) (r : BitReader) : decodeOperand bi bm r =
    if r.peek16.toNat / 2 ^ 15 = 1 then (.reg (Reg.ofField (r.peek16.toNat / 2 ^ 12 % 2 ^ 3)), r.advance 4)
    else if r.peek16.toNat / 2 ^ 14 = 0 then
      if bm && bi == .raw8 then (.imm (BitVec.ofNat 32 (r.peek16.toNat / 2 ^ 6 % 2 ^ 8)), r.advance 10)
      else (.imm (readVLQ (r.advance 2)).1, (readVLQ (r.advance 2)).2)
    else if r.peek16.toNat / 2 ^ 13 % 2 = 0 then
      (.mem (Reg.ofField (r.peek16.toNat / 2 ^ 10 % 2 ^ 3)) 0#32, r.advance 6)
    else if r.peek16.toNat / 2 ^ 12 % 2 = 0 then
      (.mem (Reg.ofField (r.peek16.toNat / 2 ^ 9 % 2 ^ 3)) (readVLQ (r.advance 7)).1, (readVLQ (r.advance 7)).2)
    else (.memAbs (readVLQ (r.advance 4)).1, (readVLQ (r.advance 4)).2) := by
  have hd := peek16_lt r
  have hreg : r.peek16 &&& 0x8000#32 ≠ 0#32 ↔ r.peek16.toNat / 2 ^ 15 = 1 := by
    rw [Ne, and_field_eq_iff 1 15 rfl]; simp; omega
  have himm : r.peek16 &&& 0xC000#32 = 0#32 ↔ r.peek16.toNat / 2 ^ 14 = 0 := by
    rw [and_field_eq_iff 2 14 rfl]; simp; omega
  have hmem : r.peek16 &&& 0x2000#32 = 0#32 ↔ r.peek16.toNat / 2 ^ 13 % 2 = 0 := by
    rw [and_field_eq_iff 1 13 rfl]; simp
  have hdisp : r.peek16 &&& 0x1000#32 = 0#32 ↔ r.peek16.toNat / 2 ^ 12 % 2 = 0 := by
    rw [and_field_eq_iff 1 12 rfl]; simp
  have hfield (k : Nat) : ((r.peek16 >>> k) &&& 7#32).toNat = r.peek16.toNat / 2 ^ k % 2 ^ 3 := by
    rw [shift_and_field _ 7#32 3 k rfl, BitVec.toNat_ofNat]
    omega
  unfold decodeOperand
  simp only [hreg, himm, hmem, hdisp, hfield, shift_and_field _ 0xFF#32 8 6 rfl]

/-- Settles O3: the bits of a form fix the number that `peek16` returns, and with it the branch and its fields. -/
theorem operandFormsDecode : Obligations.OperandFormsDecode := by
  intro bi bm r q v
  have hq : q.field < 8 := by cases q <;> decide
  refine ⟨fun h => ?_, fun h => ?_, fun h => ?_, fun h => ?_, fun hraw hv h => ?_, fun hvlq h => ?_⟩
  · have hp : r.peek16.toNat / 2 ^ 12 = 1 * 2 ^ 3 + q.field := by
      simpa [bitsNat] using peek16_of_startsWith h (by simp)
    rw [decodeOperand_eq, if_pos (by omega), show r.peek16.toNat / 2 ^ 12 % 2 ^ 3 = q.field by omega,
      Reg.ofField_field]
  · have hp : r.peek16.toNat / 2 ^ 10 = 0b010 * 2 ^ 3 + q.field := by
      simpa [bitsNat] using peek16_of_startsWith h (by simp)
    rw [decodeOperand_eq, if_neg (by omega), if_neg (by omega), if_pos (by omega),
      show r.peek16.toNat / 2 ^ 10 % 2 ^ 3 = q.field by omega, Reg.ofField_field]
  · have hp : r.peek16.toNat / 2 ^ 9 = 0b0110 * 2 ^ 3 + q.field := by
      simpa [bitsNat, ← Nat.add_assoc] using peek16_of_startsWith h (by simp)
    rw [decodeOperand_eq, if_neg (by omega), if_neg (by omega), if_neg (by omega), if_pos (by omega),
      show r.peek16.toNat / 2 ^ 9 % 2 ^ 3 = q.field by omega, Reg.ofField_field]
  · have hp : r.peek16.toNat / 2 ^ 12 = 0b0111 := peek16_of_startsWith h (by simp)
    rw [decodeOperand_eq, if_neg (by omega), if_neg (by omega), if_neg (by omega), if_neg (by omega)]
  · have hp : r.peek16.toNat / 2 ^ 6 = v.toNat % 2 ^ 8 := by
      simpa [bitsNat] using peek16_of_startsWith h (by simp)
    obtain ⟨rfl, rfl⟩ := hraw
    rw [decodeOperand_eq, if_neg (by omega), if_pos (by omega), if_pos (by rfl),
      ofNat_eq_of_eq_toNat (v := v) (by omega)]
  · have hp : r.peek16.toNat / 2 ^ 14 = 0b00 := peek16_of_startsWith h (by simp)
    have hnot : ¬ ((bm && bi == .raw8) = true) := by
      obtain rfl | rfl := hvlq <;> simp
    rw [decodeOperand_eq, if_neg (by omega), if_pos (by omega), if_neg hnot]

/-! ## The opcode field and the byte-mode bit (30_encoding.md R120, R123) -/

theorem decodeOpcode_eq (r : BitReader) : decodeOpcode r =
    if r.peek16.toNat / 2 ^ 15 = 0 then (r.peek16.toNat / 2 ^ 12, r.advance 4)
    else (r.peek16.toNat / 2 ^ 10 - 24, r.advance 6) := by
  have hd := peek16_lt r
  have hlong : r.peek16 &&& 0x8000#32 = 0#32 ↔ r.peek16.toNat / 2 ^ 15 = 0 := by
    rw [and_field_eq_iff 1 15 rfl]; simp; omega
  unfold decodeOpcode
  simp only [hlong, BitVec.toNat_ushiftRight, Nat.shiftRight_eq_div_pow]

/-- Settles O4: the bits of a form fix the number that `peek16` returns. -/
theorem opcodeFieldDecodes : Obligations.OpcodeFieldDecodes := by
  refine fun r => ⟨fun op hop h => ?_, fun op hlo hhi h => ?_⟩
  · have hp : r.peek16.toNat / 2 ^ 12 = op % 2 ^ 32 % 2 ^ 4 := by simpa using peek16_of_startsWith h (by simp)
    rw [decodeOpcode_eq, if_pos (by omega), show r.peek16.toNat / 2 ^ 12 = op by omega]
  · have hp : r.peek16.toNat / 2 ^ 10 = (op + 24) % 2 ^ 32 % 2 ^ 6 := by
      simpa using peek16_of_startsWith h (by simp)
    rw [decodeOpcode_eq, if_neg (by omega), show r.peek16.toNat / 2 ^ 10 - 24 = op by omega]

theorem decodeByteMode_of_startsWith {info : OpInfo} {r : BitReader} {bm : Bool} (hb : info.b = true)
    (h : r.startsWith [bm]) : decodeByteMode info r = (bm, r.advance 1) := by
  have hp : r.peek16.toNat / 2 ^ 15 = bm.toNat := by simpa [bitsNat] using peek16_of_startsWith h (by simp)
  have hbit : (r.peek16 >>> 15 == 1#32) = bm := by
    rw [Bool.eq_iff_iff, beq_iff_eq, ← BitVec.toNat_inj, BitVec.toNat_ushiftRight, Nat.shiftRight_eq_div_pow, hp]
    cases bm <;> decide
  simp only [decodeByteMode, hb, hbit, if_true]

theorem decodeByteMode_of_no_bit {info : OpInfo} (hb : info.b = false) (r : BitReader) :
    decodeByteMode info r = (false, r) := by
  simp [decodeByteMode, hb]

end Sys2Proof

/-! PROOF. The jump correction, the decoder on encoded instructions, and the decoder on any stream.

Both directions go through one description of the decoder by the row of its opcode (`opInfo`): how many operands it
reads, whether a byte-mode bit comes first, and whether an immediate operand is a jump or call target. -/

namespace Sys2Proof

/-! ## Jump and call targets (30_encoding.md R125, R126) -/

/-- The correction of a raw value given as an integer in the range of a word. -/
theorem correctTarget_ofInt (k : Nat) {d : Int} (hlo : -2 ^ 31 ≤ d) (hhi : d < 2 ^ 31) :
    correctTarget k (BitVec.ofInt 32 d) =
      if 256 ≤ d then BitVec.ofInt 32 (d - 256)
      else BitVec.ofInt 32
        ((if 136 ≤ d then d - 264 else if 16 ≤ d then d - 8 else if 8 ≤ d then d - 16 else d) + k) := by
  have hd : (BitVec.ofInt 32 d).toInt = d := by
    rw [BitVec.toInt_ofInt]
    exact Int.bmod_eq_of_le (by omega) (by omega)
  unfold correctTarget
  rw [hd]

/-- A negative raw value is its own displacement. -/
theorem correctTarget_of_neg (k : Nat) {d : Int} (hlo : -2 ^ 31 ≤ d) (hneg : d < 0) :
    correctTarget k (BitVec.ofInt 32 d) = BitVec.ofInt 32 (k + d) := by
  rw [correctTarget_ofInt k hlo (by omega), if_neg (by omega), if_neg (by omega), if_neg (by omega),
    if_neg (by omega), add_comm]

/-- Settles O5: each range of raw values takes its own branch of the correction. -/
theorem jumpCorrectionInvertsTheDisplacementCode : Obligations.JumpCorrectionInvertsTheDisplacementCode := by
  intro k d t
  refine ⟨fun h0 h7 => ?_, fun h8 h1 => ?_, fun h8 h127 => ?_, fun h128 h9 => ?_, fun h256 h1 => ?_, fun ht => ?_⟩
  · rw [correctTarget_ofInt k (by omega) (by omega), if_neg (by omega), if_neg (by omega), if_neg (by omega),
      if_neg (by omega), add_comm]
  · rw [correctTarget_ofInt k (by omega) (by omega), if_neg (by omega), if_neg (by omega), if_neg (by omega),
      if_pos (by omega), show d + 16 - 16 + (k : Int) = k + d by ring]
  · rw [correctTarget_ofInt k (by omega) (by omega), if_neg (by omega), if_neg (by omega), if_pos (by omega),
      show d + 8 - 8 + (k : Int) = k + d by ring]
  · rw [correctTarget_ofInt k (by omega) (by omega), if_neg (by omega), if_pos (by omega),
      show d + 264 - 264 + (k : Int) = k + d by ring]
  · exact correctTarget_of_neg k (by omega) (by omega)
  · have hraw : t + 256#32 = BitVec.ofInt 32 (t.toNat + 256) := by
      rw [BitVec.ofInt_add, BitVec.ofInt_natCast, BitVec.ofNat_toNat, BitVec.setWidth_eq]
      rfl
    rw [hraw, correctTarget_ofInt k (by omega) (by omega), if_pos (by omega), add_sub_cancel_right,
      BitVec.ofInt_natCast, BitVec.ofNat_toNat, BitVec.setWidth_eq]

theorem ofInt_add_displacement (k : Nat) (t : Word) :
    BitVec.ofInt 32 (k + (t - BitVec.ofNat 32 k).toInt) = t := by
  rw [BitVec.ofInt_add, BitVec.ofInt_natCast, BitVec.ofInt_toInt, BitVec.add_comm, BitVec.sub_add_cancel]

/-- The encoder's raw value is corrected to the target it was made from (30_encoding.md R125, R126). -/
theorem correctTarget_rawTarget {k : Nat} {t : Word} (h : targetReachable k t = true) :
    correctTarget k (rawTarget k t) = t := by
  obtain ⟨hnear, hback, hfar, hfarBack, -, habs⟩ :=
    jumpCorrectionInvertsTheDisplacementCode k (t - BitVec.ofNat 32 k).toInt t
  simp only [ofInt_add_displacement] at hnear hback hfar hfarBack
  have hlo := BitVec.le_toInt (t - BitVec.ofNat 32 k)
  simp only [targetReachable, Bool.or_eq_true, decide_eq_true_eq] at h
  unfold rawTarget
  dsimp only
  split_ifs with h1 h2 h3 h4 h5
  · exact hnear h1.1 h1.2
  · exact hback h2.1 h2.2
  · exact hfar h3.1 h3.2
  · exact hfarBack h4.1 h4.2
  · rw [correctTarget_of_neg k hlo h5, ofInt_add_displacement]
  · exact habs (by omega)

/-- Whatever the raw value, its corrected target is one that the displacement code reaches. -/
theorem targetReachable_correctTarget (k : Nat) (v : Word) : targetReachable k (correctTarget k v) = true := by
  have hlo := BitVec.le_toInt v
  have hhi := BitVec.toInt_lt (x := v)
  rw [← BitVec.ofInt_toInt (x := v), correctTarget_ofInt k hlo hhi]
  generalize v.toInt = d at hlo hhi
  simp only [targetReachable, Bool.or_eq_true, decide_eq_true_eq]
  split_ifs with habs hrel
  · left
    rw [BitVec.toNat_ofInt]
    omega
  all_goals
    right
    rw [BitVec.ofInt_add, BitVec.ofInt_natCast, BitVec.add_sub_cancel, BitVec.toInt_ofInt,
      Int.bmod_eq_of_le (by omega) (by omega)]
    omega

theorem correctOperand_rawOperand {k : Nat} {a : Operand} (h : a.targetWellFormed k = true) :
    correctOperand k (rawOperand k a) = a := by
  cases a with
  | imm t => exact congrArg Operand.imm (correctTarget_rawTarget h)
  | _ => rfl

theorem targetWellFormed_correctOperand (k : Nat) (a : Operand) : (correctOperand k a).targetWellFormed k = true := by
  cases a with
  | imm v => exact targetReachable_correctTarget k v
  | _ => rfl

/-! ## The rows of the opcode table (30_encoding.md R121) -/

/-- The immediate operand of this opcode is a jump or call target. -/
abbrev OpInfo.targets (info : OpInfo) : Bool := info.j || info.p

/-- What the table says of every row: at most two operands, one at least under a 4-bit code, and a jump or call has no
byte-mode bit and no second operand. -/
theorem opInfo_shape {op : Nat} (h : op < 40) :
    (opInfo op).n ≤ 2 ∧ (op < 8 → 1 ≤ (opInfo op).n) ∧
    ((opInfo op).targets = true → (opInfo op).n ≤ 1 ∧ (opInfo op).b = false) := by
  revert op
  decide

/-- An encodable instruction is made again from its opcode, byte mode and operands (30_encoding.md R121, R135). -/
theorem ofOpcode_of_encodable (i : Instr) : Laws.Rebuild.Statement i := by
  cases i with
  | movb | movd | cmpb | cmpd | addb | addd | subb | subd | incb | incd | decb | decd | negb | negd | standard =>
    exact fun h => nomatch h
  | _ => exact fun _ => rfl

/-- An encodable instruction has its row's operand count, and a byte mode only if its row has the bit
(30_encoding.md R121, R123). -/
theorem row_of_encodable (i : Instr) : Laws.Shape.Statement i := by
  cases i with
  | movb | movd | cmpb | cmpd | addb | addd | subb | subd | incb | incd | decb | decd | negb | negd | standard =>
    exact fun h => nomatch h
  | mov | cmp | add | sub | inc | dec | xor | and | or | test | not | shl | shr | sar | neg | xchg | mul | div | adc
  | sbb => exact fun _ => ⟨rfl, fun h => nomatch h⟩
  | _ => exact fun _ => ⟨rfl, fun _ => rfl⟩

/-- The operand an opcode's row asks for at index `k`: a target it can encode, or an operand of its byte mode. -/
def OpInfo.admits (info : OpInfo) (bi : ByteImm) (k : Nat) (bm : Bool) (a : Operand) : Bool :=
  if info.targets then a.targetWellFormed k else a.wellFormed bi bm

/-- Well-formedness of an encodable instruction, by its row (30_encoding.md R115, R125). -/
theorem wellFormed_eq_all {i : Instr} (h : i.encodable = true) (bi : ByteImm) (k : Nat) :
    i.wellFormed bi k = i.operands.all ((opInfo i.opcode).admits bi k i.byteMode) := by
  cases i with
  | movb | movd | cmpb | cmpd | addb | addd | subb | subd | incb | incd | decb | decd | negb | negd | standard =>
    exact nomatch h
  | _ => simp [Instr.wellFormed, Instr.operands, Instr.byteMode, Instr.opcode, OpInfo.admits, opInfo, opTable,
      OpInfo.plain, OpInfo.alu, OpInfo.condJump]

theorem ofOpcode_opcode {op : Nat} (h : op < 40) (bm : Bool) (a b : Operand) :
    (Instr.ofOpcode op bm a b).opcode = op := by
  interval_cases op <;> rfl

theorem ofOpcode_encodable {op : Nat} (h : op < 40) (bm : Bool) (a b : Operand) :
    (Instr.ofOpcode op bm a b).encodable = true := by
  rw [Instr.encodable, ofOpcode_opcode h]
  exact decide_eq_true h

theorem ofOpcode_byteMode {op : Nat} (h : op < 40) (bm : Bool) (a b : Operand) :
    (Instr.ofOpcode op bm a b).byteMode = ((opInfo op).b && bm) := by
  interval_cases op <;> rfl

theorem ofOpcode_operands {op : Nat} (h : op < 40) (bm : Bool) (a b : Operand) :
    (Instr.ofOpcode op bm a b).operands = [a, b].take (opInfo op).n := by
  interval_cases op <;> rfl

/-! ## The decoder over its row (30_encoding.md R123, R124, R135) -/

/-- `n` operands decoded in order. -/
def decodeOperands (bi : ByteImm) (bm : Bool) : Nat → BitReader → List Operand × BitReader
  | 0, r => ([], r)
  | n + 1, r =>
    let a := decodeOperand bi bm r
    let as := decodeOperands bi bm n a.2
    (a.1 :: as.1, as.2)

/-- The operands of the instruction at index `k`, from the operands decoded. -/
def OpInfo.correct (info : OpInfo) (k : Nat) (as : List Operand) : List Operand :=
  if info.targets then as.map (correctOperand k) else as

/-- `DecodeInstr` with its operands as a list: the opcode field, the byte-mode bit, as many operands as the row says. -/
theorem decodeInstr_eq {bi : ByteImm} {k op : Nat} {r r1 r2 r3 : BitReader} {bm : Bool} {as : List Operand}
    (hop : op < 40) (h1 : decodeOpcode r = (op, r1)) (h2 : decodeByteMode (opInfo op) r1 = (bm, r2))
    (h3 : decodeOperands bi bm (opInfo op).n r2 = (as, r3)) :
    decodeInstr bi k r =
      (Instr.ofOpcode op bm (((opInfo op).correct k as).getD 0 (.imm 0#32))
        (((opInfo op).correct k as).getD 1 (.imm 0#32)), r3) := by
  obtain ⟨hn, -, htarget⟩ := opInfo_shape hop
  unfold decodeInstr OpInfo.correct
  simp only [h1, h2]
  generalize opInfo op = info at *
  obtain h | h | h : info.n = 0 ∨ info.n = 1 ∨ info.n = 2 := by omega
  · rw [h] at h3 ⊢
    cases h3
    split_ifs <;> rfl
  · rw [h] at h3 ⊢
    cases h3
    dsimp only [OpInfo.targets]
    split_ifs <;> rfl
  · rw [h] at h3 ⊢
    cases h3
    have ht : ¬ info.targets = true := fun ht => by have := htarget ht; omega
    simp only [if_neg ht]
    rfl

/-! ## The decoder on encoded instructions -/

theorem decodeOpcode_encodeOpcode {op : Nat} {r : BitReader} (hop : op < 40) (h : r.startsWith (encodeOpcode op)) :
    decodeOpcode r = (op, r.advance (encodeOpcode op).length) := by
  obtain ⟨hshort, hlong⟩ := opcodeFieldDecodes r
  unfold encodeOpcode at h ⊢
  split_ifs at h ⊢ with h8
  · simpa using hshort op h8 h
  · simpa using hlong op (by omega) hop h

/-- Each shortest form is one of the five forms (30_encoding.md R105). -/
theorem readVLQ_encodeVLQ {v : Word} {r : BitReader} (h : r.startsWith (encodeVLQ v)) :
    readVLQ r = (v, r.advance (encodeVLQ v).length) := by
  obtain ⟨hnibble, hbyte, hneg, hhalf, hword⟩ := vlqFormsReadTheirValue r v
  unfold encodeVLQ at h ⊢
  split_ifs at h ⊢ with h16 h256 hhigh h65536
  · simpa using hnibble h16 h
  · simpa using hbyte (by omega) h256 h
  · simpa using hneg hhigh h
  · simpa using hhalf h65536 h
  · simpa using hword h

/-- A VLQ value behind the first bits `as` of an operand's form. -/
theorem readVLQ_behind (as : List Bool) {v : Word} {r : BitReader} (h : r.startsWith (as ++ encodeVLQ v)) :
    r.startsWith as ∧ readVLQ (r.advance as.length) = (v, r.advance (as ++ encodeVLQ v).length) := by
  obtain ⟨hform, hval⟩ := BitReader.startsWith_append.mp h
  exact ⟨hform, by rw [readVLQ_encodeVLQ hval, BitReader.advance_advance, List.length_append]⟩

theorem decodeOperand_encodeOperand {bi : ByteImm} {bm : Bool} {a : Operand} {r : BitReader}
    (hwf : a.wellFormed bi bm = true) (h : r.startsWith (encodeOperand bi bm a)) :
    decodeOperand bi bm r = (a, r.advance (encodeOperand bi bm a).length) := by
  have forms (q : Reg) (v : Word) := operandFormsDecode bi bm r q v
  cases a with
  | reg q => simpa [encodeOperand] using (forms q 0#32).1 h
  | imm v =>
    obtain ⟨-, -, -, -, hraw, hvlq⟩ := forms .r0 v
    by_cases hb : (bm && bi == .raw8) = true
    · have hv : v.toNat < 256 := by simpa [Operand.wellFormed, hb] using hwf
      simp only [encodeOperand, if_pos hb] at h ⊢
      simpa using hraw (by simpa using hb) hv h
    · simp only [encodeOperand, if_neg hb] at h ⊢
      obtain ⟨hform, hval⟩ := readVLQ_behind [false, false] h
      have hbi : bm = false ∨ bi = .vlq := by
        cases bm <;> cases bi <;> simp at hb ⊢
      rw [hvlq hbi hform, show 2 = [false, false].length from rfl, hval]
      rfl
  | mem q d =>
    obtain ⟨-, hshort, hlong, -⟩ := forms q 0#32
    by_cases hd : d = 0#32
    · subst hd
      simp only [encodeOperand, if_pos] at h ⊢
      simpa using hshort h
    · simp only [encodeOperand, if_neg hd] at h ⊢
      obtain ⟨hform, hval⟩ := readVLQ_behind ([false, true, true, false] ++ encodeReg q) h
      rw [hlong hform, show 7 = ([false, true, true, false] ++ encodeReg q).length from rfl, hval]
      rfl
  | memAbs d =>
    obtain ⟨-, -, -, habs, -⟩ := forms .r0 0#32
    obtain ⟨hform, hval⟩ := readVLQ_behind [false, true, true, true] h
    rw [habs hform, show 4 = [false, true, true, true].length from rfl, hval]
    rfl

theorem decodeOperands_encodeOperand {bi : ByteImm} {bm : Bool} : ∀ {as : List Operand} {r : BitReader},
    (∀ a ∈ as, a.wellFormed bi bm = true) → r.startsWith (as.map (encodeOperand bi bm)).flatten →
      decodeOperands bi bm as.length r = (as, r.advance (as.map (encodeOperand bi bm)).flatten.length)
  | [], _, _, _ => rfl
  | a :: as, r, hwf, h => by
    obtain ⟨ha, has⟩ := List.forall_mem_cons.mp hwf
    obtain ⟨hfirst, hrest⟩ := BitReader.startsWith_append.mp h
    simp only [List.length_cons, decodeOperands, decodeOperand_encodeOperand ha hfirst,
      decodeOperands_encodeOperand has hrest, BitReader.advance_advance, List.map_cons, List.flatten_cons,
      List.length_append]

/-- An operand of a dword-mode instruction is encodable whatever it holds (30_encoding.md R113). -/
theorem Operand.wellFormed_dword (bi : ByteImm) (a : Operand) : a.wellFormed bi false = true := by
  cases a <;> rfl

/-- The operands an instruction at index `k` is encoded with: a jump's or call's target as its raw value. -/
def encodedOperands (k : Nat) (i : Instr) : List Operand :=
  if (opInfo i.opcode).targets then i.operands.map (rawOperand k) else i.operands

theorem encode_eq {i : Instr} (h : i.encodable = true) (bi : ByteImm) (k : Nat) : encode bi k i =
    some (encodeOpcode i.opcode ++ (if (opInfo i.opcode).b then [i.byteMode] else []) ++
      ((encodedOperands k i).map (encodeOperand bi i.byteMode)).flatten) := by
  unfold encode
  rw [if_pos h]
  rfl

/-- The operands encoded are as many as the row says, are corrected to the instruction's own, and can each be encoded
(30_encoding.md R125, R126). -/
theorem encodedOperands_spec {bi : ByteImm} {k : Nat} {i : Instr} (henc : i.encodable = true)
    (hwf : i.wellFormed bi k = true) :
    (encodedOperands k i).length = (opInfo i.opcode).n ∧
      (opInfo i.opcode).correct k (encodedOperands k i) = i.operands ∧
      ∀ a ∈ encodedOperands k i, a.wellFormed bi i.byteMode = true := by
  obtain ⟨hlen, hmode⟩ := row_of_encodable i henc
  obtain ⟨-, -, htarget⟩ := opInfo_shape (by simpa [Instr.encodable] using henc)
  rw [wellFormed_eq_all henc, List.all_eq_true] at hwf
  unfold OpInfo.correct encodedOperands
  by_cases ht : (opInfo i.opcode).targets = true
  · simp only [if_pos ht, OpInfo.admits] at hwf ⊢
    refine ⟨by simpa using hlen, ?_, fun a _ => ?_⟩
    · rw [List.map_map]
      exact (List.map_congr_left fun a ha => correctOperand_rawOperand (hwf a ha)).trans (List.map_id' _)
    · rw [hmode (htarget ht).2]
      exact a.wellFormed_dword bi
  · simp only [if_neg ht, OpInfo.admits] at hwf ⊢
    exact ⟨hlen, trivial, hwf⟩

theorem decodeByteMode_encoded {info : OpInfo} {r : BitReader} {bm : Bool} (hmode : info.b = false → bm = false)
    (h : r.startsWith (if info.b then [bm] else [])) :
    decodeByteMode info r = (bm, r.advance (if info.b then [bm] else []).length) := by
  cases hb : info.b with
  | true =>
    rw [hb] at h
    exact decodeByteMode_of_startsWith hb h
  | false =>
    rw [hmode hb]
    exact decodeByteMode_of_no_bit hb r

/-- Settles O6: the opcode field, the byte-mode bit and the operands are each decoded from their own bits, and the
instruction is made again from them. -/
theorem decodeOfEncodeIsIdentity : Obligations.DecodeOfEncodeIsIdentity := by
  intro bi k i bs r hwf hbs h
  have henc : i.encodable = true := by
    by_contra hnot
    simp [encode, hnot] at hbs
  have hop : i.opcode < 40 := by simpa [Instr.encodable] using henc
  obtain ⟨hlen, hcorrect, hops⟩ := encodedOperands_spec henc hwf
  rw [encode_eq henc] at hbs
  obtain rfl := Option.some.inj hbs
  obtain ⟨hhead, hoperands⟩ := BitReader.startsWith_append.mp h
  obtain ⟨hopcode, hmode⟩ := BitReader.startsWith_append.mp hhead
  rw [List.length_append, ← BitReader.advance_advance] at hoperands
  have hdecoded := decodeOperands_encodeOperand hops hoperands
  rw [hlen] at hdecoded
  have hbm := decodeByteMode_encoded (row_of_encodable i henc).2 hmode
  rw [decodeInstr_eq hop (decodeOpcode_encodeOpcode hop hopcode) hbm hdecoded, hcorrect, ofOpcode_of_encodable i henc]
  simp only [BitReader.advance_advance, List.length_append]

/-! ## The decoder on any stream (30_encoding.md R115, R124, R127) -/

theorem readVLQ_pos (r : BitReader) : r.pos + 6 ≤ (readVLQ r).2.pos ∧ (readVLQ r).2.pos ≤ r.pos + 34 := by
  rw [readVLQ_eq]
  split_ifs <;> simp [BitReader.advance]

theorem decodeOperand_pos (bi : ByteImm) (bm : Bool) (r : BitReader) :
    r.pos + 4 ≤ (decodeOperand bi bm r).2.pos ∧ (decodeOperand bi bm r).2.pos ≤ r.pos + 41 := by
  have vlq (n : Nat) := readVLQ_pos (r.advance n)
  simp only [BitReader.advance] at vlq
  rw [decodeOperand_eq]
  split_ifs <;> dsimp only [BitReader.advance]
  · omega
  · omega
  · have := vlq 2; omega
  · omega
  · have := vlq 7; omega
  · have := vlq 4; omega

/-- A raw immediate is one byte (30_encoding.md R113). -/
theorem decodeOperand_wellFormed (bi : ByteImm) (bm : Bool) (r : BitReader) :
    (decodeOperand bi bm r).1.wellFormed bi bm = true := by
  rw [decodeOperand_eq]
  split_ifs with hreg himm hraw
  · rfl
  · simp [Operand.wellFormed]
    omega
  · simp [Operand.wellFormed, hraw]
  all_goals rfl

theorem decodeOperands_spec (bi : ByteImm) (bm : Bool) : ∀ (n : Nat) (r : BitReader),
    (decodeOperands bi bm n r).1.length = n ∧ (∀ a ∈ (decodeOperands bi bm n r).1, a.wellFormed bi bm = true) ∧
      r.pos + 4 * n ≤ (decodeOperands bi bm n r).2.pos ∧ (decodeOperands bi bm n r).2.pos ≤ r.pos + 41 * n
  | 0, r => by simp [decodeOperands]
  | n + 1, r => by
    obtain ⟨hlen, hwf, hlo, hhi⟩ := decodeOperands_spec bi bm n (decodeOperand bi bm r).2
    have hpos := decodeOperand_pos bi bm r
    refine ⟨congrArg (· + 1) hlen, List.forall_mem_cons.mpr ⟨decodeOperand_wellFormed bi bm r, hwf⟩, ?_, ?_⟩
    · simp only [decodeOperands]; omega
    · simp only [decodeOperands]; omega

theorem decodeOpcode_spec (r : BitReader) : (decodeOpcode r).1 < 40 ∧ r.pos + 4 ≤ (decodeOpcode r).2.pos ∧
    (8 ≤ (decodeOpcode r).1 → r.pos + 6 ≤ (decodeOpcode r).2.pos) ∧ (decodeOpcode r).2.pos ≤ r.pos + 6 := by
  have hd := peek16_lt r
  rw [decodeOpcode_eq]
  split_ifs <;> dsimp only [BitReader.advance]
  · omega
  · omega

theorem decodeByteMode_spec (info : OpInfo) (r : BitReader) :
    (info.b && (decodeByteMode info r).1) = (decodeByteMode info r).1 ∧
      r.pos ≤ (decodeByteMode info r).2.pos ∧ (decodeByteMode info r).2.pos ≤ r.pos + 1 := by
  unfold decodeByteMode
  cases info.b <;> simp [BitReader.advance]

/-- An instruction made of operands that its row admits is well formed (30_encoding.md R127). -/
theorem ofOpcode_wellFormed {bi : ByteImm} {k op : Nat} {bm : Bool} {as : List Operand} (hop : op < 40)
    (hbm : ((opInfo op).b && bm) = bm) (hlen : as.length = (opInfo op).n)
    (has : ∀ a ∈ as, (opInfo op).admits bi k bm a = true) :
    (Instr.ofOpcode op bm (as.getD 0 (.imm 0#32)) (as.getD 1 (.imm 0#32))).wellFormed bi k = true := by
  have htake : [as.getD 0 (.imm 0#32), as.getD 1 (.imm 0#32)].take (opInfo op).n = as := by
    have hn := (opInfo_shape hop).1
    rw [← hlen] at hn ⊢
    match as, hn with
    | [], _ => rfl
    | [a], _ => rfl
    | [a, b], _ => rfl
  rw [wellFormed_eq_all (ofOpcode_encodable hop _ _ _), ofOpcode_opcode hop, ofOpcode_operands hop,
    ofOpcode_byteMode hop, hbm, htake, List.all_eq_true]
  exact has

theorem correct_spec {info : OpInfo} {bi : ByteImm} (k : Nat) {bm : Bool} {as : List Operand}
    (has : ∀ a ∈ as, a.wellFormed bi bm = true) :
    (info.correct k as).length = as.length ∧ ∀ a ∈ info.correct k as, info.admits bi k bm a = true := by
  unfold OpInfo.correct OpInfo.admits
  split_ifs with ht
  · simp [targetWellFormed_correctOperand]
  · exact ⟨rfl, has⟩

/-- Settles O7: the fields decode to a row, its byte mode and operands that the row admits; their lengths add up. -/
theorem everyStreamDecodesToAWellFormedInstruction : Obligations.EveryStreamDecodesToAWellFormedInstruction := by
  intro bi k r
  obtain ⟨hop, hopLo, hopLong, hopHi⟩ := decodeOpcode_spec r
  generalize h1 : decodeOpcode r = opcode at *
  obtain ⟨op, r1⟩ := opcode
  obtain ⟨hbm, hmodeLo, hmodeHi⟩ := decodeByteMode_spec (opInfo op) r1
  generalize h2 : decodeByteMode (opInfo op) r1 = mode at *
  obtain ⟨bm, r2⟩ := mode
  obtain ⟨hlen, hwf, hlo, hhi⟩ := decodeOperands_spec bi bm (opInfo op).n r2
  generalize h3 : decodeOperands bi bm (opInfo op).n r2 = operands at *
  obtain ⟨as, r3⟩ := operands
  obtain ⟨hclen, hadmits⟩ := correct_spec (info := opInfo op) k hwf
  obtain ⟨hn, hshort, -⟩ := opInfo_shape hop
  have hbuf := Machine.decodeInstr_buf bi k r
  rw [decodeInstr_eq hop h1 h2 h3] at hbuf ⊢
  refine ⟨ofOpcode_wellFormed hop hbm (hclen.trans hlen) hadmits, ofOpcode_encodable hop _ _ _, ?_, ?_, hbuf⟩
  · dsimp only at *
    by_cases h8 : op < 8
    · have := hshort h8; omega
    · have := hopLong (by omega); omega
  · dsimp only at *
    omega

end Sys2Proof

/-! PROOF. `prepare` and the optimizer: the bounds, the three ways of `prepare`, what each static-data byte and each
instruction is read from, and what the optimizer makes of every instruction. -/

namespace Sys2Proof.Machine

/-! ## The optimizer, instruction by instruction (30_encoding.md R145, R146) -/

theorem specialise_operands_byteMode (required : Bool) (i : Instr) :
    ((specialise required i).operands, (specialise required i).byteMode) = (i.operands, i.byteMode) := by
  cases i with
  | mov bm | cmp bm => cases bm <;> rfl
  | add bm | sub bm | inc bm | dec bm | neg bm => cases required <;> cases bm <;> rfl
  | _ => rfl

/-- No specialised instruction is a generic MOV or CMP (30_encoding.md R148). -/
theorem specialise_opcode (required : Bool) (i : Instr) :
    (specialise required i).opcode ≠ 0 ∧ (specialise required i).opcode ≠ 1 := by
  cases i with
  | mov bm | cmp bm => cases bm <;> exact ⟨nofun, nofun⟩
  | add bm | sub bm | inc bm | dec bm | neg bm => cases required <;> cases bm <;> exact ⟨nofun, nofun⟩
  | _ => exact ⟨nofun, nofun⟩

/-- Where the scan finds a consumer, only MOV and CMP are rewritten. -/
theorem specialise_required {i : Instr} (h0 : i.opcode ≠ 0) (h1 : i.opcode ≠ 1) : specialise true i = i := by
  cases i with
  | mov => exact absurd rfl h0
  | cmp => exact absurd rfl h1
  | _ => rfl

/-- Only seven opcodes are ever rewritten. -/
theorem specialise_other {i : Instr} (h : i.opcode ∉ [0, 1, 2, 3, 6, 7, 27]) (required : Bool) :
    specialise required i = i := by
  cases i with
  | mov | cmp | add | sub | inc | dec | neg => exact absurd (by simp [Instr.opcode]) h
  | _ => rfl

theorem mem_optimize {i : Instr} {is : List Instr} (h : i ∈ optimize is) :
    ∃ j required, i = specialise required j := by
  obtain ⟨n, hn⟩ := List.mem_iff_getElem?.mp h
  rw [optimize_getElem?] at hn
  obtain ⟨j, -, hj⟩ := Option.map_eq_some_iff.mp hn
  exact ⟨j, _, hj.symm⟩

/-- Settles O14: the optimizer specialises each instruction in its place. -/
theorem optimizerChangesOnlyOpcodes : Obligations.OptimizerChangesOnlyOpcodes := by
  refine fun cmd => ⟨?_, fun n bm a b => ⟨fun h => ?_, fun h => ?_⟩⟩
  · refine List.ext_getElem? fun n => ?_
    simp only [List.getElem?_map, optimize_getElem?, Option.map_map, Function.comp_def, specialise_operands_byteMode]
  · rw [optimize_getElem?, h]
    rfl
  · rw [optimize_getElem?, h]
    rfl

/-- A flag consumer comes in the list before every instruction that changes flags (30_encoding.md R146). -/
def ConsumerFirst (is : List Instr) : Prop :=
  ∃ (m : Nat) (j : Instr), is[m]? = some j ∧ needsFlags j = true ∧
    ∀ (l : Nat) (x : Instr), l < m → is[l]? = some x → changesFlags x = false

theorem consumerFirst_cons (i : Instr) (is : List Instr) :
    ConsumerFirst (i :: is) ↔ needsFlags i = true ∨ (changesFlags i = false ∧ ConsumerFirst is) := by
  constructor
  · rintro ⟨m, j, hj, hn, hc⟩
    cases m with
    | zero =>
      cases hj
      exact .inl hn
    | succ m => exact .inr ⟨hc 0 i m.succ_pos rfl, m, j, hj, hn, fun l x hl hx => hc (l + 1) x (by omega) hx⟩
  · rintro (hn | ⟨hi, m, j, hj, hn, hc⟩)
    · exact ⟨0, i, rfl, hn, fun l x hl => absurd hl (by omega)⟩
    · refine ⟨m + 1, j, hj, hn, fun l x hl hx => ?_⟩
      cases l with
      | zero =>
        cases hx
        exact hi
      | succ l => exact hc l x (by omega) hx

/-- The scan of the dead-flag rule answers whether a consumer comes first. -/
theorem flagsRequired_iff (is : List Instr) : flagsRequired is = true ↔ ConsumerFirst is := by
  induction is with
  | nil => simp [flagsRequired, ConsumerFirst]
  | cons i is ih => simp [flagsRequired_cons, consumerFirst_cons, ih]

theorem needsFlags_iff (i : Instr) : needsFlags i = true ↔
    (opInfo i.opcode).j = true ∨ (opInfo i.opcode).p = true ∨ (opInfo i.opcode).u = true := by
  simp [needsFlags, or_assoc]

/-- The consumer of the rest of a Program, by its index in the whole. -/
theorem consumerFirst_drop (cmd : List Instr) (n : Nat) :
    ConsumerFirst (cmd.drop (n + 1)) ↔ ∃ (m : Nat) (j : Instr), n < m ∧ cmd[m]? = some j ∧
      ((opInfo j.opcode).j = true ∨ (opInfo j.opcode).p = true ∨ (opInfo j.opcode).u = true) ∧
      ∀ (l : Nat) (x : Instr), n < l → l < m → cmd[l]? = some x → (opInfo x.opcode).c = false := by
  simp only [ConsumerFirst, List.getElem?_drop, needsFlags_iff]
  constructor
  · rintro ⟨m, j, hj, hn, hc⟩
    refine ⟨n + 1 + m, j, by omega, hj, hn, fun l x hnl hlm hx => hc (l - (n + 1)) x (by omega) ?_⟩
    rwa [show n + 1 + (l - (n + 1)) = l by omega]
  · rintro ⟨m, j, hnm, hj, hn, hc⟩
    refine ⟨m - (n + 1), j, ?_, hn, fun l x hl hx => hc (n + 1 + l) x (by omega) (by omega) hx⟩
    rwa [show n + 1 + (m - (n + 1)) = m by omega]

/-- Settles O15: the scan's answer is the rule's condition, and the specialised instruction follows from it. -/
theorem deadFlagSpecialisationRule : Obligations.DeadFlagSpecialisationRule := by
  intro cmd n i hi required
  have hopt : (optimize cmd)[n]? = some (specialise (flagsRequired (cmd.drop (n + 1))) i) := by
    rw [optimize_getElem?, hi]
    rfl
  have hscan : flagsRequired (cmd.drop (n + 1)) = true ↔ required :=
    (flagsRequired_iff _).trans (consumerFirst_drop cmd n)
  refine ⟨fun hreq h0 h1 => ?_, fun hdead bm a b => ?_⟩
  · rw [hopt, hscan.mpr hreq, specialise_required h0 h1]
  · have hno : flagsRequired (cmd.drop (n + 1)) = false := by simpa using mt hscan.mp hdead
    rw [hno] at hopt
    refine ⟨?_, ?_, ?_, ?_, ?_, fun h => ?_⟩
    case refine_6 => rw [hopt, specialise_other h]
    all_goals
      rintro rfl
      exact hopt

/-! ## The three ways of `prepare` -/

/-- Settles O9. -/
theorem prepareRefusesExactlyBadLengths : Obligations.PrepareRefusesExactlyBadLengths := by
  refine fun cfg code => ⟨fun hlo hhi => ⟨_, if_pos ⟨hlo, hhi⟩⟩, fun hbad => if_neg ?_⟩
  omega

/-- The checksum test, with the XOR taken from the left. -/
theorem checksumOk_cons (b : Byte) (bs : List Byte) :
    checksumOk (b :: bs) = true ↔ bs.foldl (fun x y => x ^^^ y) 0#8 = b := by
  have hfold (c : Byte) : bs.foldl (fun x y => x ^^^ y) c = c ^^^ xorBytes bs := by
    induction bs generalizing c with
    | nil => simp [xorBytes]
    | cons d ds ih => rw [List.foldl_cons, ih, xorBytes, BitVec.xor_assoc]
  rw [checksumOk, hfold, BitVec.zero_xor, beq_iff_eq]

/-- The Program without a match of the checksum (30_encoding.md R132). -/
theorem prepareCode_of_bad_checksum {cfg : Config} {code : List Byte} (h : checksumOk code = false) :
    prepareCode cfg code = ⟨[.ret], [], ⟨code, 8⟩⟩ := by
  simp only [prepareCode, h]
  rfl

/-- Settles O10: the test fails, and the optimizer keeps the RET. -/
theorem badChecksumGivesOnlyRet : Obligations.BadChecksumGivesOnlyRet := by
  intro cfg b bs h
  have hbad : checksumOk (b :: bs) = false := by simpa using mt (checksumOk_cons b bs).mp h
  rw [prepareCode_of_bad_checksum hbad]
  exact ⟨rfl, rfl⟩

/-- With a limit of 0 no static byte is read, whatever the block says (30_encoding.md R133). -/
theorem readStaticBlock_limit_zero (fuel : Nat) (r : BitReader) : (readStaticBlock fuel 0 r).1 = [] := by
  have hnone (n : Nat) (q : BitReader) : (readStatic fuel 0 n q).1 = [] := by
    cases fuel <;> simp [readStatic, BitReader.before]
  unfold readStaticBlock
  dsimp only
  split_ifs
  · exact hnone _ _
  · rfl

/-- Settles O11: the search passes the entries before the first match, and the static block is read with limit 0. -/
theorem signatureHitGivesStandardThenRet : Obligations.SignatureHitGivesStandardThenRet := by
  intro cfg b bs pre post e hsum hsigs hpre hlen hcrc
  have hok := (checksumOk_cons b bs).mpr hsum
  have hfind : findSignature cfg (b :: bs) = some e := by
    rw [findSignature, hsigs, List.find?_append, List.find?_eq_none.mpr fun x hx => by simpa using hpre x hx,
      List.find?_cons_of_pos (by simpa using ⟨hlen, hcrc⟩)]
    rfl
  simp only [prepareCode, hok, hfind, if_true]
  exact ⟨trivial, readStaticBlock_limit_zero _ _⟩

/-- The Program of a bytecode with a matching checksum and no signature (30_encoding.md R130). -/
theorem prepareCode_ordinary {cfg : Config} {code : List Byte} (hok : checksumOk code = true)
    (hfind : findSignature cfg code = none) :
    let block := readStaticBlock code.length code.length ⟨code, 8⟩
    let decoded := decodeLoop cfg.byteImm (8 * code.length) code.length 0 block.2
    prepareCode cfg code = ⟨optimize (decoded.1 ++ [.ret]), block.1, decoded.2⟩ := by
  simp only [prepareCode, hok, hfind, if_true]
  rfl

/-- Settles O13: the optimizer leaves no MOV and no CMP, and the other Programs are `[STANDARD, RET]`. -/
theorem preparedProgramsAreWellFormed : Obligations.PreparedProgramsAreWellFormed := by
  refine fun cfg code => ⟨prepareCode_wf cfg code, fun i hi => ?_⟩
  have hoptimized {is : List Instr} (h : i ∈ optimize is) : i.opcode ≠ 0 ∧ i.opcode ≠ 1 := by
    obtain ⟨j, required, rfl⟩ := mem_optimize h
    exact specialise_opcode required j
  unfold prepareCode at hi
  dsimp only at hi
  split at hi
  · split at hi
    · obtain rfl | rfl : i = .standard (.imm _) ∨ i = .ret := by simpa using hi
      · exact ⟨nofun, nofun⟩
      · exact ⟨nofun, nofun⟩
    · exact hoptimized hi
  · exact hoptimized hi

/-! ## Static data (30_encoding.md R134) -/

/-- The eight stream bits at the cursor, as the static-data loop takes them. -/
def staticByte (r : BitReader) : Byte := (r.peek16 >>> 8).setWidth 8

theorem staticByte_getLsbD (r : BitReader) {j : Nat} (hj : j < 8) :
    (staticByte r).getLsbD (7 - j) = r.bitAt (r.pos + j) := by
  rw [staticByte, BitVec.getLsbD_setWidth, BitVec.getLsbD_ushiftRight, show 8 + (7 - j) = 15 - j by omega,
    peek16_getLsbD r (by omega), decide_eq_true (by omega), Bool.true_and]

/-- The static-data loop under enough fuel: as many bytes as asked for and as stand before the limit, each from its own
eight bits. -/
theorem readStatic_eq (limit : Nat) : ∀ (fuel n : Nat) (r : BitReader), limit - r.pos / 8 ≤ fuel →
    readStatic fuel limit n r =
      ((List.range (min n (limit - r.pos / 8))).map fun i => staticByte (r.advance (8 * i)),
        r.advance (8 * min n (limit - r.pos / 8)))
  | 0, n, r, h => by
    rw [show min n (limit - r.pos / 8) = 0 by omega]
    rfl
  | fuel + 1, n, r, h => by
    by_cases hmore : r.pos / 8 < limit ∧ 0 < n
    · have hcount : min n (limit - r.pos / 8) = min (n - 1) (limit - (r.advance 8).pos / 8) + 1 := by
        simp only [advance_pos]
        omega
      have hcond : (r.before limit && decide (0 < n)) = true := by simpa [BitReader.before] using hmore
      rw [readStatic, if_pos hcond, readStatic_eq limit fuel (n - 1) (r.advance 8) (by simp only [advance_pos]; omega),
        hcount, List.range_succ_eq_map]
      simp [staticByte, BitReader.advance, Nat.mul_add, Nat.add_assoc, Nat.add_comm 8, Function.comp_def]
    · have hcond : ¬ (r.before limit && decide (0 < n)) = true := by simpa [BitReader.before] using hmore
      rw [readStatic, if_neg hcond, show min n (limit - r.pos / 8) = 0 by omega]
      rfl

/-- The flag bit is the stream bit at the cursor. -/
theorem flag_bit_iff (r : BitReader) : r.peek16 &&& 0x8000#32 ≠ 0#32 ↔ r.bitAt r.pos = true := by
  have hbit := peek16_getLsbD r (j := 0) (by decide)
  rw [Nat.add_zero] at hbit
  rw [← hbit, Ne, and_field_eq_iff 1 15 rfl, BitVec.getLsbD, Nat.testBit_eq_decide_div_mod_eq]
  simp

/-- The number of static-data bytes of a bytecode whose flag bit is 1. -/
def staticCount (code : List Byte) : Nat :=
  min ((readVLQ ⟨code, 9⟩).1 + 1#32).toNat (code.length - (readVLQ ⟨code, 9⟩).2.pos / 8)

/-- The static-data block of a bytecode: its bytes and the cursor after them. -/
theorem readStaticBlock_eq (code : List Byte) : readStaticBlock code.length code.length ⟨code, 8⟩ =
    if BitReader.bitAt ⟨code, 0⟩ 8 then
      ((List.range (staticCount code)).map fun i => staticByte ⟨code, (readVLQ ⟨code, 9⟩).2.pos + 8 * i⟩,
        ⟨code, (readVLQ ⟨code, 9⟩).2.pos + 8 * staticCount code⟩)
    else ([], ⟨code, 9⟩) := by
  have hadvance (n : Nat) :
      (readVLQ ⟨code, 9⟩).2.advance n = ⟨code, (readVLQ ⟨code, 9⟩).2.pos + n⟩ := by
    rw [BitReader.advance, readVLQ_buf]
  have hread := readStatic_eq code.length code.length ((readVLQ ⟨code, 9⟩).1 + 1#32).toNat (readVLQ ⟨code, 9⟩).2
    (by omega)
  simp only [hadvance] at hread
  unfold readStaticBlock
  dsimp only [BitReader.advance]
  simp only [flag_bit_iff]
  rw [hread]
  rfl

/-! ## The decode loop (30_encoding.md R130, R135) -/

theorem decodeLoop_before {bi : ByteImm} {limit k : Nat} {r : BitReader} (h : r.pos / 8 < limit) (fuel : Nat) :
    decodeLoop bi (fuel + 1) limit k r =
      ((decodeInstr bi k r).1 :: (decodeLoop bi fuel limit (k + 1) (decodeInstr bi k r).2).1,
        (decodeLoop bi fuel limit (k + 1) (decodeInstr bi k r).2).2) := by
  rw [decodeLoop, if_pos (by simpa [BitReader.before] using h)]

theorem decodeLoop_not_before {bi : ByteImm} {limit k : Nat} {r : BitReader} (h : ¬ r.pos / 8 < limit) (fuel : Nat) :
    decodeLoop bi (fuel + 1) limit k r = ([], r) := by
  rw [decodeLoop, if_neg (by simpa [BitReader.before] using h)]

/-- The loop under enough fuel, from instruction `k` on: it decodes in order while the cursor is before the limit, and
stops only where it is not. -/
theorem decodeLoop_eq (bi : ByteImm) (limit : Nat) (start : BitReader) : ∀ (fuel k : Nat),
    8 * limit ≤ (readerAt bi start k).pos + fuel →
      ∃ n, (∀ m, m < n → (readerAt bi start (k + m)).pos / 8 < limit) ∧
        limit ≤ (readerAt bi start (k + n)).pos / 8 ∧
        decodeLoop bi fuel limit k (readerAt bi start k) =
          ((List.range' k n).map fun m => (decodeInstr bi m (readerAt bi start m)).1, readerAt bi start (k + n))
  | 0, k, h => ⟨0, by simp, by simp only [Nat.add_zero]; omega, rfl⟩
  | fuel + 1, k, h => by
    by_cases hmore : (readerAt bi start k).pos / 8 < limit
    · obtain ⟨-, -, hstep, -⟩ := everyStreamDecodesToAWellFormedInstruction bi k (readerAt bi start k)
      obtain ⟨n, hbefore, hend, heq⟩ := decodeLoop_eq bi limit start fuel (k + 1) (by rw [readerAt_succ]; omega)
      have hnext (m : Nat) : k + 1 + m = k + (m + 1) := by omega
      rw [readerAt_succ] at heq
      simp only [hnext] at hbefore hend heq
      refine ⟨n + 1, fun m hm => ?_, hend, ?_⟩
      · cases m with
        | zero => exact hmore
        | succ m => exact hbefore m (by omega)
      · rw [decodeLoop_before hmore, heq]
        rfl
    · exact ⟨0, by simp, Nat.not_lt.mp hmore, decodeLoop_not_before hmore fuel⟩

/-- Settles O12: the static block and the decode loop, each under the fuel that the length of the bytecode gives. -/
theorem ordinaryPrepareReadsStaticDataThenDecodesToTheEnd :
    Obligations.OrdinaryPrepareReadsStaticDataThenDecodesToTheEnd := by
  intro cfg b bs code p hsum hsig stream v count start
  have hfind : findSignature cfg code = none := List.find?_eq_none.mpr fun e he => by simpa using hsig e he
  have hp := prepareCode_ordinary ((checksumOk_cons b bs).mpr hsum) hfind
  have hblock := readStaticBlock_eq code
  have hdata : p.staticData = (readStaticBlock code.length code.length ⟨code, 8⟩).1 :=
    congrArg Prepared.staticData hp
  have hstart : (readStaticBlock code.length code.length ⟨code, 8⟩).2 = start :=
    (congrArg Prod.snd hblock).trans (apply_ite Prod.snd _ _ _)
  obtain ⟨n, hbefore, hend, hloop⟩ := decodeLoop_eq cfg.byteImm code.length start (8 * code.length) 0 (by omega)
  simp only [Nat.zero_add] at hbefore hend hloop
  have hdecoded : decodeLoop cfg.byteImm (8 * code.length) code.length 0
      (readStaticBlock code.length code.length ⟨code, 8⟩).2 =
        (decodedFrom cfg.byteImm start n, readerAt cfg.byteImm start n) := by
    rw [hstart, decodedFrom, List.range_eq_range']
    exact hloop
  refine ⟨fun hflag => ?_, fun hflag => ?_, n, hbefore, hend, ?_, ?_⟩
  · rw [hdata, hblock]
    exact congrArg Prod.fst (if_neg (ne_true_of_eq_false hflag))
  · have hbytes : p.staticData = (List.range count).map fun i => staticByte ⟨code, v.2.pos + 8 * i⟩ := by
      rw [hdata, hblock]
      exact congrArg Prod.fst (if_pos hflag)
    rw [hbytes]
    refine ⟨by simp, fun i x hx j hj => ?_⟩
    rw [List.getElem?_map, Option.map_eq_some_iff] at hx
    obtain ⟨i', hi', rfl⟩ := hx
    obtain rfl : i = i' := by simpa using (List.getElem?_eq_some_iff.mp hi').2
    exact staticByte_getLsbD _ hj
  · exact (congrArg Prepared.reader hp).trans (congrArg Prod.snd hdecoded)
  · exact (congrArg Prepared.cmd hp).trans (congrArg (fun d => optimize (d.1 ++ [.ret])) hdecoded)

end Sys2Proof.Machine

/-! PROOF. An optimized Program runs as the Program it was made from, F aside (30_encoding.md R150).

The equivalence is followed through two runs at once (`FlagTwins`): each operation that an instruction's body is made
of takes two states that differ in a dead F and in the Programs to two such states. One step of the optimized Program
is the same instruction on the twin (`exec_twins`), then the instruction specialised (`specialise_runsAlike`). -/

namespace Sys2Proof.Machine

/-! ## States alike but for F and the Programs -/

/-- `t` agrees with `s` in everything but F and the Programs, which are equally long where they stand at IP; F agrees
too unless it is dead. -/
structure FlagTwins (dead : Prop) (s t : State) : Prop where
  same : SameButFlags s t
  count : t.cmdCount = s.cmdCount
  flags : t.f = s.f ∨ dead

/-- Both runs complete, and leave twins. -/
def FlagsRunAlike (dead : Prop) (x y : StepResult) : Prop := ∃ s t, x = .next s ∧ y = .next t ∧ FlagTwins dead s t

theorem FlagTwins.runsAlike {dead : Prop} {s t : State} (h : FlagTwins dead s t) :
    FlagsRunAlike dead (.next s) (.next t) :=
  ⟨s, t, rfl, rfl, h⟩

theorem FlagsRunAlike.mono {dead dead' : Prop} {x y : StepResult} (h : FlagsRunAlike dead x y) (hd : dead → dead') :
    FlagsRunAlike dead' x y := by
  obtain ⟨s, t, hx, hy, ht⟩ := h
  exact ⟨s, t, hx, hy, ht.same, ht.count, ht.flags.imp_right hd⟩

theorem SameButFlags.trans {s t u : State} (h : SameButFlags s t) (k : SameButFlags t u) : SameButFlags s u := by
  unfold SameButFlags at *
  rw [← h, ← k]

theorem FlagTwins.trans {dead dead' : Prop} {s t u : State} (h : FlagTwins dead s t) (k : FlagTwins dead' t u) :
    FlagTwins (dead ∨ dead') s u where
  same := h.same.trans k.same
  count := k.count.trans h.count
  flags := by
    obtain ht | hd := h.flags
    · exact k.flags.imp (·.trans ht) .inr
    · exact .inr (.inl hd)

section
variable {dead : Prop} {s t : State}

/-! ### What twins read -/

theorem FlagTwins.refl (dead : Prop) (s : State) : FlagTwins dead s s := ⟨rfl, rfl, .inl rfl⟩

theorem sameButFlags_iff : SameButFlags s t ↔ t = (s.setF t.f).setPrograms t.programs := by
  constructor
  · intro h
    rw [← h]
    rfl
  · intro h
    rw [h]
    rfl

theorem FlagTwins.eq (h : FlagTwins dead s t) : t = (s.setF t.f).setPrograms t.programs := sameButFlags_iff.mp h.same

theorem FlagTwins.cfg (h : FlagTwins dead s t) : t.cfg = s.cfg := by rw [h.eq]; rfl

theorem FlagTwins.regs (h : FlagTwins dead s t) : t.regs = s.regs := by rw [h.eq]; rfl

theorem FlagTwins.reg (h : FlagTwins dead s t) (r : Reg) : t.reg r = s.reg r := by rw [h.eq]; rfl

theorem FlagTwins.mem (h : FlagTwins dead s t) : t.mem = s.mem := by rw [h.eq]; rfl

theorem FlagTwins.ip (h : FlagTwins dead s t) : t.ip = s.ip := by rw [h.eq]; rfl

theorem FlagTwins.budget (h : FlagTwins dead s t) : t.budget = s.budget := by rw [h.eq]; rfl

theorem FlagTwins.readOp (h : FlagTwins dead s t) (loc : Loc) (w : Width) : readOp t loc w = readOp s loc w := by
  unfold Machine.readOp
  simp only [h.reg, h.mem]

theorem FlagTwins.loadTop (h : FlagTwins dead s t) : loadTop t = loadTop s := by
  unfold Machine.loadTop
  rw [h.reg, h.mem]

/-! ### The operations that bodies are made of -/

/-- An update that neither reads nor writes F or the Programs. -/
theorem FlagTwins.map {g : State → State} (h : FlagTwins dead s t) (hc : ∀ u, (g u).cur = u.cur)
    (hg : ∀ u v ps, g ((u.setF v).setPrograms ps) = ((g u).setF v).setPrograms ps) : FlagTwins dead (g s) (g t) := by
  have heta (u : State) : g u = ((g u).setF u.f).setPrograms u.programs := hg u u.f u.programs
  have hf (u : State) : (g u).f = u.f := by rw [heta]; rfl
  have hp (u : State) : (g u).programs = u.programs := by rw [heta]; rfl
  refine ⟨sameButFlags_iff.mpr ?_, ?_, ?_⟩
  · rw [hf, hp, ← hg, ← h.eq]
  · rw [cmdCount_congr (hp t) (hc t), cmdCount_congr (hp s) (hc s), h.count]
  · rw [hf, hf]
    exact h.flags

theorem FlagTwins.setRegs (h : FlagTwins dead s t) (rs : Regs) : FlagTwins dead (s.setRegs rs) (t.setRegs rs) :=
  h.map (g := (State.setRegs · rs)) (fun _ => rfl) fun _ _ _ => rfl

theorem FlagTwins.setMem (h : FlagTwins dead s t) (m : Memory) : FlagTwins dead (s.setMem m) (t.setMem m) :=
  h.map (g := (State.setMem · m)) (fun _ => rfl) fun _ _ _ => rfl

theorem FlagTwins.setReg (h : FlagTwins dead s t) (r : Reg) (v : Word) : FlagTwins dead (s.setReg r v) (t.setReg r v) :=
  h.map (g := (State.setReg · r v)) (fun _ => rfl) fun _ _ _ => rfl

theorem FlagTwins.setBudget (h : FlagTwins dead s t) (b : Int) : FlagTwins dead (s.setBudget b) (t.setBudget b) :=
  h.map (g := (State.setBudget · b)) (fun _ => rfl) fun _ _ _ => rfl

theorem FlagTwins.setIp (h : FlagTwins dead s t) (k : Nat) : FlagTwins dead (s.setIp k) (t.setIp k) :=
  h.map (g := (State.setIp · k)) (fun _ => rfl) fun _ _ _ => rfl

theorem FlagTwins.setDeclined (h : FlagTwins dead s t) (b : Bool) :
    FlagTwins dead (s.setDeclined b) (t.setDeclined b) :=
  h.map (g := (State.setDeclined · b)) (fun _ => rfl) fun _ _ _ => rfl

theorem FlagTwins.decSp (h : FlagTwins dead s t) : FlagTwins dead (decSp s) (decSp t) :=
  h.map (fun _ => rfl) fun _ _ _ => rfl

theorem FlagTwins.incSp (h : FlagTwins dead s t) : FlagTwins dead (incSp s) (incSp t) :=
  h.map (fun _ => rfl) fun _ _ _ => rfl

theorem FlagTwins.advance (h : FlagTwins dead s t) : FlagTwins dead (advance s) (advance t) :=
  h.map (fun _ => rfl) fun _ _ _ => rfl

theorem FlagTwins.finish (h : FlagTwins dead s t) (o : ExecOutcome) : FlagTwins dead (finish s o) (finish t o) :=
  h.map (g := (Machine.finish · o)) (fun _ => rfl) fun _ _ _ => rfl

theorem FlagTwins.storeTop (h : FlagTwins dead s t) (v : Word) : FlagTwins dead (storeTop s v) (storeTop t v) :=
  h.map (g := (Machine.storeTop · v)) (fun _ => rfl) fun _ _ _ => rfl

theorem FlagTwins.writeOp (h : FlagTwins dead s t) (loc : Loc) (w : Width) (v : Word) :
    FlagTwins dead (writeOp s loc w v) (writeOp t loc w v) :=
  h.map (g := (Machine.writeOp · loc w v)) (fun _ => by simp) fun _ _ _ => by cases loc <;> cases w <;> rfl

/-- A write of F leaves no difference in it. -/
theorem FlagTwins.setF (h : FlagTwins dead s t) (v : Word) (dead' : Prop) : FlagTwins dead' (s.setF v) (t.setF v) where
  same := by
    rw [sameButFlags_iff, h.eq]
    rfl
  count := h.count
  flags := .inl rfl

/-- `setIP` neither reads nor writes F, and of the Programs it reads the length at IP's (43_control.md R300): both runs
continue, or both end. -/
theorem FlagTwins.setIP_cases (h : FlagTwins dead s t) (target : Word) :
    ∃ u u', FlagTwins dead u u' ∧
      ((setIP s target = .continued u ∧ setIP t target = .continued u') ∨
       (setIP s target = .ended u ∧ setIP t target = .ended u')) := by
  simp only [setIP, h.count, h.budget, State.setBudget_budget]
  by_cases ht : s.cmdCount ≤ target.toNat
  · exact ⟨_, _, h.finish .finished, .inr ⟨if_pos ht, if_pos ht⟩⟩
  · simp only [if_neg ht]
    have hspent := h.setBudget (s.budget - 1)
    by_cases hb : s.budget - 1 ≤ 0
    · exact ⟨_, _, hspent.finish .exhausted, .inr ⟨if_pos hb, if_pos hb⟩⟩
    · exact ⟨_, _, hspent.setIp target.toNat, .inl ⟨if_neg hb, if_neg hb⟩⟩

theorem FlagTwins.setIP (h : FlagTwins dead s t) (target : Word) :
    FlagTwins dead (setIP s target).state (setIP t target).state := by
  obtain ⟨u, u', hu, ⟨he, he'⟩ | ⟨he, he'⟩⟩ := h.setIP_cases target
  all_goals
    rw [he, he']
    exact hu

/-! ### The shapes of instruction bodies: those that write F leave no difference in it -/

variable {w : Width} {op1 op2 : Operand}

theorem FlagTwins.aluBinary {result flags : Word → Word → Word} (h : FlagTwins dead s t) (dead' : Prop) :
    FlagsRunAlike dead' (aluBinary w op1 op2 result flags s) (aluBinary w op1 op2 result flags t) := by
  simp only [Machine.aluBinary, h.regs, h.readOp]
  exact ((h.writeOp _ _ _).setF _ dead').advance.runsAlike

theorem FlagTwins.flagsOnly {flags : Word → Word → Word} (h : FlagTwins dead s t) (dead' : Prop) :
    FlagsRunAlike dead' (flagsOnly w op1 op2 flags s) (flagsOnly w op1 op2 flags t) := by
  simp only [Machine.flagsOnly, h.regs, h.readOp]
  exact (h.setF _ dead').advance.runsAlike

theorem FlagTwins.aluUnary {result flags : Word → Word} (h : FlagTwins dead s t) (dead' : Prop) :
    FlagsRunAlike dead' (aluUnary w op1 result flags s) (aluUnary w op1 result flags t) := by
  simp only [Machine.aluUnary, h.regs, h.readOp]
  exact ((h.writeOp _ _ _).setF _ dead').advance.runsAlike

theorem FlagTwins.quietBinary {result : Word → Word → Word} (h : FlagTwins dead s t) :
    FlagsRunAlike dead (quietBinary w op1 op2 result s) (quietBinary w op1 op2 result t) := by
  simp only [Machine.quietBinary, h.regs, h.readOp]
  exact (h.writeOp _ _ _).advance.runsAlike

theorem FlagTwins.quietUnary {result : Word → Word} (h : FlagTwins dead s t) :
    FlagsRunAlike dead (quietUnary w op1 result s) (quietUnary w op1 result t) := by
  simp only [Machine.quietUnary, h.regs, h.readOp]
  exact (h.writeOp _ _ _).advance.runsAlike

theorem FlagTwins.moveOp {wr : Width} {f : Word → Word} (h : FlagTwins dead s t) :
    FlagsRunAlike dead (moveOp wr w op1 op2 f s) (moveOp wr w op1 op2 f t) := by
  simp only [Machine.moveOp, h.regs, h.readOp]
  exact (h.writeOp _ _ _).advance.runsAlike

theorem FlagTwins.jumpIf {cond : Bool} (h : FlagTwins dead s t) :
    FlagsRunAlike dead (jumpIf cond op1 s) (jumpIf cond op1 t) := by
  cases cond with
  | false => exact h.advance.runsAlike
  | true =>
    simp only [Machine.jumpIf, if_pos, h.regs, h.readOp]
    exact (h.setIP _).runsAlike

theorem FlagTwins.execDiv {bm : Bool} (h : FlagTwins dead s t) :
    FlagsRunAlike dead (execDiv bm op1 op2 s) (execDiv bm op1 op2 t) := by
  simp only [Machine.execDiv, h.regs, h.readOp]
  split
  · exact h.advance.runsAlike
  · exact h.quietBinary

theorem FlagTwins.execXchg {bm : Bool} (h : FlagTwins dead s t) :
    FlagsRunAlike dead (execXchg bm op1 op2 s) (execXchg bm op1 op2 t) := by
  simp only [Machine.execXchg, h.regs, h.readOp]
  exact ((h.writeOp _ _ _).writeOp _ _ _).advance.runsAlike

theorem FlagTwins.execPush (h : FlagTwins dead s t) : FlagsRunAlike dead (execPush op1 s) (execPush op1 t) := by
  simp only [Machine.execPush, h.regs, h.decSp.readOp]
  exact (h.decSp.storeTop _).advance.runsAlike

theorem FlagTwins.execPop (h : FlagTwins dead s t) : FlagsRunAlike dead (execPop op1 s) (execPop op1 t) := by
  simp only [Machine.execPop, h.regs, h.loadTop]
  exact (h.writeOp _ _ _).incSp.advance.runsAlike

theorem FlagTwins.execPusha (h : FlagTwins dead s t) : FlagsRunAlike dead (execPusha s) (execPusha t) := by
  simp only [Machine.execPusha, h.regs, h.reg, h.mem]
  exact ((h.setMem _).setReg _ _).advance.runsAlike

theorem FlagTwins.execPopa (h : FlagTwins dead s t) : FlagsRunAlike dead (execPopa s) (execPopa t) := by
  simp only [Machine.execPopa, h.reg, h.mem]
  exact (h.setRegs _).advance.runsAlike

theorem FlagTwins.execPopf (h : FlagTwins dead s t) (dead' : Prop) :
    FlagsRunAlike dead' (execPopf s) (execPopf t) := by
  simp only [Machine.execPopf, h.loadTop]
  exact (h.setF _ dead').incSp.advance.runsAlike

theorem FlagTwins.execStandard (h : FlagTwins dead s t) :
    FlagsRunAlike dead (execStandard op1 s) (execStandard op1 t) := by
  simp only [Machine.execStandard, h.regs, h.readOp, h.mem]
  split
  · exact (h.setMem _).advance.runsAlike
  · exact (h.setDeclined _).advance.runsAlike

theorem FlagTwins.execCall (h : FlagTwins dead s t) : FlagsRunAlike dead (execCall op1 s) (execCall op1 t) := by
  have hpush := h.decSp.storeTop (BitVec.ofNat 32 (s.ip + 1))
  simp only [Machine.execCall, h.regs, h.ip, hpush.readOp]
  exact (hpush.setIP _).runsAlike

theorem FlagTwins.execRet (h : FlagTwins dead s t) : FlagsRunAlike dead (execRet s) (execRet t) := by
  simp only [Machine.execRet, h.reg, h.loadTop]
  split
  · exact (h.finish _).runsAlike
  · obtain ⟨u, u', hu, ⟨he, he'⟩ | ⟨he, he'⟩⟩ := h.setIP_cases (Machine.loadTop s)
    · simp only [he, he']
      exact hu.incSp.runsAlike
    · simp only [he, he']
      exact hu.runsAlike

end

/-! ### An instruction on twins -/

/-- Every instruction runs alike on twins whose F agrees where it reads F. Where it changes flags by the table, it
leaves no difference in F (10_state.md R38, R39). -/
theorem exec_twins {i : Instr} {dead : Prop} {s t : State} (h : FlagTwins dead s t)
    (hf : needsFlags i = true → t.f = s.f) :
    FlagsRunAlike (dead ∧ changesFlags i = false) (exec i s) (exec i t) := by
  have quiet {x y : StepResult} (hq : FlagsRunAlike dead x y) (hi : changesFlags i = false) :
      FlagsRunAlike (dead ∧ changesFlags i = false) x y := hq.mono fun hd => ⟨hd, hi⟩
  cases i with
  | mov | movb | movd | movzx | movsx => exact quiet h.moveOp rfl
  | shl | shr | sar => exact h.aluBinary _
  | and | or | xor =>
    simp only [exec, execAnd, execOr, execXor]
    exact h.aluBinary _
  | add | sub =>
    simp only [exec, execAdd, execSub, h.cfg]
    exact h.aluBinary _
  | adc | sbb =>
    simp only [exec, execAdc, execSbb, h.cfg, hf rfl]
    exact h.aluBinary _
  | inc | dec | neg => exact h.aluUnary _
  | cmp | cmpb | cmpd =>
    simp only [exec, execCmp, execCmpb, execCmpd, h.cfg]
    exact h.flagsOnly _
  | test => exact h.flagsOnly (flags := fun v1 v2 => zs (v1 &&& v2)) _
  | mul | addb | addd | subb | subd => exact quiet h.quietBinary rfl
  | not | negb | negd => exact quiet h.quietUnary rfl
  | incb | incd => exact quiet (h.quietUnary (result := fun v => v + 1#32)) rfl
  | decb | decd => exact quiet (h.quietUnary (result := fun v => v - 1#32)) rfl
  | jmp => exact quiet (h.jumpIf (cond := true)) rfl
  | jz | jnz | js | jns | jb | jbe | ja | jae =>
    simp only [exec, execJz, execJnz, execJs, execJns, execJb, execJbe, execJa, execJae, hf rfl]
    exact quiet h.jumpIf rfl
  | div => exact quiet h.execDiv rfl
  | xchg => exact quiet h.execXchg rfl
  | push => exact quiet h.execPush rfl
  | pop => exact quiet h.execPop rfl
  | pusha => exact quiet h.execPusha rfl
  | popa => exact quiet h.execPopa rfl
  | pushf =>
    simp only [exec, execPushf, hf rfl]
    exact quiet (h.decSp.storeTop s.f).advance.runsAlike rfl
  | popf => exact h.execPopf _
  | print => exact quiet h.advance.runsAlike rfl
  | standard => exact quiet h.execStandard rfl
  | call => exact quiet h.execCall rfl
  | ret => exact quiet h.execRet rfl

/-- An instruction that is no jump, no procedure instruction and no flag user goes on to IP + 1. -/
theorem exec_advances {i : Instr} {s t : State} (hi : needsFlags i = false) (h : exec i s = .next t) :
    Advances s t := by
  cases i with
  | mov | movb | movd | movzx | movsx => exact moveOp_advances h
  | add | sub | shl | shr | sar => exact aluBinary_advances h
  | and | or | xor =>
    simp only [exec, execAnd, execOr, execXor] at h
    exact aluBinary_advances h
  | inc | dec | neg => exact aluUnary_advances h
  | cmp | cmpb | cmpd => exact flagsOnly_advances h
  | test => exact flagsOnly_advances (flags := fun v1 v2 => zs (v1 &&& v2)) h
  | mul | addb | addd | subb | subd => exact quietBinary_advances h
  | not | negb | negd => exact quietUnary_advances h
  | incb | incd => exact quietUnary_advances (result := fun v => v + 1#32) h
  | decb | decd => exact quietUnary_advances (result := fun v => v - 1#32) h
  | div => exact execDiv_advances h
  | xchg => exact execXchg_advances h
  | push => exact execPush_advances h
  | pop => exact execPop_advances h
  | pusha => exact execPusha_advances h
  | popa => exact execPopa_advances h
  | popf => exact execPopf_advances h
  | print => exact execPrint_advances h
  | standard => exact execStandard_advances h
  | jmp | jz | jnz | js | jns | jb | jbe | ja | jae | call | ret | adc | sbb | pushf => cases hi

/-! ## A typed opcode against its generic one -/

/-- A write takes its value's low part alone (20_memory.md R81). -/
theorem writeOp_congr {w : Width} {v v' : Word} (h : lowPart w v = lowPart w v') (s : State) (loc : Loc) :
    writeOp s loc w v = writeOp s loc w v' := by
  cases w with
  | dword => exact congrArg _ h
  | byte =>
    have hlow : v &&& 0xFF#32 = v' &&& 0xFF#32 := h
    have hbyte : byteOf v 0 = byteOf v' 0 := by
      ext i hi
      have hbit := congrArg (BitVec.getLsbD · i) hlow
      have hmask : (0xFF#32).getLsbD i = true := by
        interval_cases i <;> rfl
      simpa [byteOf, hmask, hi] using hbit
    unfold writeOp mergeReg memWrite8
    simp only [hlow, hbyte]

theorem lowPart_lowPart (w : Width) (v : Word) : lowPart w (lowPart w v) = lowPart w v := by
  cases w with
  | dword => rfl
  | byte => simp [lowPart, BitVec.and_assoc]

section
variable {w : Width} {op1 op2 : Operand} {s : State}

/-- A result written without the flags leaves a twin of the result written with them. -/
theorem FlagTwins.setF_quiet (u : State) (v : Word) : FlagTwins True (u.setF v) u :=
  ⟨rfl, rfl, .inr trivial⟩

/-- The binary typed opcodes: the same low part written, no flag (41_arithmetic.md R241 to R244). -/
theorem aluBinary_quietBinary {result flags quiet : Word → Word → Word}
    (h : ∀ v1 v2, lowPart w (result v1 v2) = lowPart w (quiet v1 v2)) :
    FlagsRunAlike True (aluBinary w op1 op2 result flags s) (quietBinary w op1 op2 quiet s) := by
  simp only [aluBinary, quietBinary, writeOp_congr (h _ _)]
  exact (FlagTwins.setF_quiet _ _).advance.runsAlike

/-- The unary typed opcodes: the same low part written, no flag (41_arithmetic.md R245 to R250). -/
theorem aluUnary_quietUnary {result flags quiet : Word → Word}
    (h : ∀ v, lowPart w (result v) = lowPart w (quiet v)) :
    FlagsRunAlike True (aluUnary w op1 result flags s) (quietUnary w op1 quiet s) := by
  simp only [aluUnary, quietUnary, writeOp_congr (h _)]
  exact (FlagTwins.setF_quiet _ _).advance.runsAlike

end

/-- A specialised instruction does what the generic one does but, where the scan found no consumer, for F
(30_encoding.md R145, R146). -/
theorem specialise_runsAlike (required : Bool) (i : Instr) (s : State) :
    FlagsRunAlike (needsFlags i = false ∧ required = false) (exec i s) (exec (specialise required i) s) := by
  have unchanged (P : Prop) : FlagsRunAlike P (exec i s) (exec i s) := by
    obtain ⟨u, v, hu, -, -⟩ := exec_twins (i := i) (FlagTwins.refl False s) fun _ => rfl
    rw [hu]
    exact (FlagTwins.refl P u).runsAlike
  cases required with
  | true =>
    cases i with
    | mov bm | cmp bm => cases bm <;> exact unchanged _
    | _ => exact unchanged _
  | false =>
    have typed {y : StepResult} (h : FlagsRunAlike True (exec i s) y) (hi : needsFlags i = false) :
        FlagsRunAlike (needsFlags i = false ∧ false = false) (exec i s) y := h.mono fun _ => ⟨hi, rfl⟩
    cases i with
    | mov bm | cmp bm => cases bm <;> exact unchanged _
    | add bm => cases bm <;> exact typed (aluBinary_quietBinary fun _ _ => lowPart_lowPart _ _) rfl
    | sub bm => cases bm <;> exact typed (aluBinary_quietBinary fun _ _ => rfl) rfl
    | inc bm =>
      cases bm <;> exact typed (aluUnary_quietUnary (quiet := fun v => v + 1#32) fun _ => lowPart_lowPart _ _) rfl
    | dec bm => cases bm <;> exact typed (aluUnary_quietUnary (quiet := fun v => v - 1#32) fun _ => rfl) rfl
    | neg bm => cases bm <;> exact typed (aluUnary_quietUnary (quiet := fun v => 0#32 - v) fun _ => rfl) rfl
    | _ => exact unchanged _

/-! ## The simulation (30_encoding.md R150) -/

/-- The twin runs the optimized Program. -/
theorem OptRelated.cmd {s t : State} (h : OptRelated s t) : t.program.cmd = optimize s.program.cmd := by
  have hcur : t.cur = s.cur := by
    rw [sameButFlags_iff.mp h.same]
    rfl
  simp only [State.program, List.getD_eq_getElem?_getD, h.program, hcur, List.getElem?_modify_eq]
  cases s.programs[s.cur]? <;> rfl

/-- Settles O16: the instruction on twins, then the instruction specialised; an F left different is dead at the next
instruction, because the scan from there found no consumer. -/
theorem optimizedProgramSimulatesTheUnoptimizedOne : Obligations.OptimizedProgramSimulatesTheUnoptimizedOne := by
  intro s t s' hrun hrel hstep
  obtain ⟨i, hi, hexec⟩ : ∃ i, s.program.cmd[s.ip]? = some i ∧ exec i s = .next s' := by
    obtain ⟨hp, -⟩ | ⟨-, h⟩ | ⟨o, hp, -⟩ := step_cases hstep
    · cases hrun.symm.trans hp
    · exact h
    · cases hrun.symm.trans hp
  have hdrop : s.program.cmd.drop s.ip = i :: s.program.cmd.drop (s.ip + 1) := by
    obtain ⟨hlt, hget⟩ := List.getElem?_eq_some_iff.mp hi
    rw [List.drop_eq_getElem_cons hlt, hget]
  set rest := s.program.cmd.drop (s.ip + 1) with hrest
  have twins : FlagTwins (flagsRequired (i :: rest) = false) s t :=
    ⟨hrel.same, by rw [State.cmdCount, hrel.cmd, optimize_length]; rfl, hdrop ▸ hrel.flags⟩
  have hlive : flagsRequired (i :: rest) = false →
      needsFlags i = false ∧ (changesFlags i = false → flagsRequired rest = false) := by
    rw [flagsRequired_cons]
    cases needsFlags i <;> cases changesFlags i <;> simp
  obtain ⟨u, v, hu, hv, huv⟩ := exec_twins (i := i) twins fun hn =>
    twins.flags.resolve_right fun hd => by simp [hlive hd] at hn
  obtain ⟨v', t', hv', ht', hvt⟩ := specialise_runsAlike (flagsRequired rest) i t
  obtain rfl : s' = u := by injection hexec.symm.trans hu
  obtain rfl : v = v' := by injection hv.symm.trans hv'
  have result := huv.trans hvt
  have hfetch : t.program.cmd[t.ip]? = some (specialise (flagsRequired rest) i) := by
    rw [hrel.cmd, optimize_getElem?, twins.ip, hi]
    rfl
  refine ⟨t', ?_, result.same, fun _ => ⟨result.same, ?_, ?_⟩⟩
  · have hphase : t.phase = .running := by rw [twins.eq]; exact hrun
    simp only [step, hphase, fetch, hfetch, ht']
  · obtain ⟨hps, hcs, -⟩ := noInstructionChangesAProgram _ _ _ hexec
    obtain ⟨hpt, -⟩ := noInstructionChangesAProgram _ _ _ ht'
    rw [hpt, hps, hcs, hrel.program]
  · refine result.flags.imp_right fun hd => ?_
    obtain ⟨hn, hdead⟩ : needsFlags i = false ∧ flagsRequired rest = false := by
      obtain ⟨hlater, hc⟩ | h := hd
      · exact ⟨(hlive hlater).1, (hlive hlater).2 hc⟩
      · exact h
    obtain ⟨w, hw, rfl⟩ := exec_advances hn hexec
    obtain ⟨hps, hcs, -⟩ := noInstructionChangesAProgram _ _ _ hexec
    rw [program_congr hps hcs, advance_ip, hw.ip]
    exact hdead

end Sys2Proof.Machine

/-! PROOF. Data movement (40_move.md): the moves are one shape of body, `moveOp`, and differ in their widths and in
what is done to the byte read; XCHG is two writes one after the other. -/

namespace Sys2Proof.Machine

/-! ## The moves -/

/-- An instruction whose body is `moveOp` computes its result from operand 2 alone, and leaves F. -/
theorem computes_of_moveOp {i : Instr} {s : State} {a b : Operand} {wr ww : Width} {f : Word → Word}
    (h : exec i s = moveOp wr ww a b f s) : Computes i s a ww (f (operandValue s b wr)) s.f := by
  unfold Computes
  rw [h]
  exact moveOp_spec wr ww a b f s

/-- The sign extension of a byte by its bit 7: bits 31:8 stay clear or are all set (00_scope.md R20). -/
theorem sext8_eq {v : Word} (hv : v.toNat < 256) :
    sext8 v = if v.toNat < 128 then v else v + 0xFFFFFF00#32 := by
  have hlow : v.toNat % 2 ^ 8 = v.toNat := Nat.mod_eq_of_lt hv
  have hmsb : (v.setWidth 8).msb = decide (128 ≤ v.toNat) := by
    rw [BitVec.msb_eq_decide, BitVec.toNat_setWidth, hlow]
  apply BitVec.eq_of_toNat_eq
  rw [sext8, BitVec.toNat_signExtend, hmsb, BitVec.toNat_setWidth, BitVec.toNat_setWidth, hlow]
  by_cases h : v.toNat < 128
  · rw [if_pos h, if_neg (by simpa using h)]
    omega
  · rw [if_neg h, if_pos (by simpa using h), BitVec.toNat_add]
    simp only [BitVec.toNat_ofNat]
    omega

/-- Settles O23: each is `moveOp` at one width with the value kept. -/
theorem movesCopyTheirSource : Obligations.MovesCopyTheirSource := fun _ _ _ =>
  ⟨fun _ => computes_of_moveOp (f := id) rfl, computes_of_moveOp (f := id) rfl, computes_of_moveOp (f := id) rfl⟩

/-- Settles O24: each is `moveOp` from a byte to 32 bits; MOVSX puts `sext8` between, which has a byte to extend. -/
theorem extendingMovesExtendAByte : Obligations.ExtendingMovesExtendAByte := by
  intro s a b
  refine ⟨computes_of_moveOp (f := id) rfl, ?_⟩
  rw [← sext8_eq (operandValue_byte_lt s b)]
  exact computes_of_moveOp rfl

/-! ## XCHG -/

/-- Settles O25: the state between the two writes is what the first `writeOp` leaves. -/
theorem xchgExchangesThroughTwoOrderedWrites : Obligations.XchgExchangesThroughTwoOrderedWrites := by
  intro s bm a b
  refine ⟨writeOp s (resolve s.regs a) (widthOf bm) (operandValue s b (widthOf bm)), _, rfl, ?control, by simp,
    by simp, writeOp_written s _ _ _, ?second⟩
  case control =>
    exact advance_advanced (by simp) (by simp) (((SameRest.refl s).writeOp _ _ _).writeOp _ _ _)
  case second => exact (writeOp_written _ _ _ _).congr rfl rfl

end Sys2Proof.Machine

/-! PROOF. Arithmetic and compares (41_arithmetic.md): each body is one of five shapes, so an instruction's statement
comes down to its result and its flags as functions of two values below `2 ^ w.bits`, computed here in exact
arithmetic. -/

namespace Sys2Proof.Machine

/-! ## The shapes of instruction bodies, with the result and the flags under other names -/

section
variable {i : Instr} {s : State} {a b : Operand} {w : Width}

theorem computes_of_aluBinary {result flags : Word → Word → Word} {r f : Word}
    (h : exec i s = aluBinary w a b result flags s) (hr : result (operandValue s a w) (operandValue s b w) = r)
    (hf : flags (operandValue s a w) (operandValue s b w) = f) : Computes i s a w r f := by
  subst hr hf
  unfold Computes
  rw [h]
  exact aluBinary_spec w a b result flags s

theorem computes_of_aluUnary {result flags : Word → Word} {r f : Word} (h : exec i s = aluUnary w a result flags s)
    (hr : result (operandValue s a w) = r) (hf : flags (operandValue s a w) = f) : Computes i s a w r f := by
  subst hr hf
  unfold Computes
  rw [h]
  exact aluUnary_spec w a result flags s

theorem setsFlags_of_flagsOnly {flags : Word → Word → Word} {f : Word} (h : exec i s = flagsOnly w a b flags s)
    (hf : flags (operandValue s a w) (operandValue s b w) = f) : SetsFlags i s f := by
  subst hf
  unfold SetsFlags
  rw [h]
  exact flagsOnly_spec w a b flags s

/-- The result matters at its width alone, since no flag is made from it. -/
theorem computes_of_quietBinary {result : Word → Word → Word} {r : Word} (h : exec i s = quietBinary w a b result s)
    (hr : lowPart w (result (operandValue s a w) (operandValue s b w)) = lowPart w r) : Computes i s a w r s.f := by
  have hq : quietBinary w a b result s = quietBinary w a b (fun _ _ => r) s :=
    congrArg (fun u => (.next (advance u) : StepResult)) (writeOp_congr hr s _)
  unfold Computes
  rw [h, hq]
  exact quietBinary_spec w a b (fun _ _ => r) s

theorem computes_of_quietUnary {result : Word → Word} {r : Word} (h : exec i s = quietUnary w a result s)
    (hr : lowPart w (result (operandValue s a w)) = lowPart w r) : Computes i s a w r s.f := by
  have hq : quietUnary w a result s = quietUnary w a (fun _ => r) s :=
    congrArg (fun u => (.next (advance u) : StepResult)) (writeOp_congr hr s _)
  unfold Computes
  rw [h, hq]
  exact quietUnary_spec w a (fun _ => r) s

end

/-! ## Values at a width -/

/-- A value taken at a width, as a number (00_scope.md R25). -/
theorem lowPart_toNat (w : Width) (v : Word) : (lowPart w v).toNat = v.toNat % 2 ^ w.bits := by
  cases w with
  | byte => exact lowPart_byte_toNat v
  | dword => exact (Nat.mod_eq_of_lt v.isLt).symm

/-- A value read at a width is below the width's bound (20_memory.md R80). -/
theorem operandValue_lt (s : State) (op : Operand) (w : Width) : (operandValue s op w).toNat < 2 ^ w.bits := by
  cases w with
  | byte => exact operandValue_byte_lt s op
  | dword => exact (operandValue s op .dword).isLt

/-- Reduction modulo 2^32 keeps the value modulo a width. -/
theorem mod_word_mod_bits (n : Nat) (w : Width) : n % 2 ^ 32 % 2 ^ w.bits = n % 2 ^ w.bits :=
  Nat.mod_mod_of_dvd n (pow_dvd_pow 2 (by cases w <;> decide))

/-- A write of width `w` takes a number modulo the width, so a result is only fixed that far. -/
theorem lowPart_eq_lowPart_ofNat {w : Width} {v : Word} {n : Nat} (h : v.toNat % 2 ^ w.bits = n % 2 ^ w.bits) :
    lowPart w v = lowPart w (BitVec.ofNat 32 n) :=
  BitVec.eq_of_toNat_eq (by rw [lowPart_toNat, lowPart_toNat, BitVec.toNat_ofNat, mod_word_mod_bits, h])

/-- A word from its number. -/
theorem eq_ofNat_of_toNat_eq {v : Word} {n : Nat} (h : v.toNat = n) : v = BitVec.ofNat 32 n :=
  (ofNat_eq_of_eq_toNat h.symm).symm

/-! ## Flags: the model's terms in the words of the statements -/

/-- The carry term goes with either formula; an OR of distinct flags is their sum (41_arithmetic.md R220). -/
theorem carryFlags_flagWord (ff : FlagFormula) (carry zero sign : Bool) :
    carryFlags ff carry (flagWord .idiomatic false zero sign) = flagWord ff carry zero sign := by
  cases ff <;> revert carry zero sign <;> decide

/-- The zero and sign term, with the sign taken from bit `k`. -/
theorem zeroSign_eq_flagWord (r : Word) (k : Nat) :
    (if r = 0#32 then FZ else if r.getLsbD k then FS else 0#32) =
      flagWord .idiomatic false (decide (r = 0#32)) (r.getLsbD k) := by
  by_cases h : r = 0#32 <;> simp [flagWord, FZ, FS, h]

/-- `ZS` is the zero and sign of a flag word with no carry (00_scope.md R24). -/
theorem zs_eq_flagWord (r : Word) : zs r = flagWord .idiomatic false (decide (r = 0#32)) r.msb := by
  have hsign : r &&& FS = if r.getLsbD 31 then FS else 0#32 := BitVec.and_twoPow r 31
  rw [zs, hsign, zeroSign_eq_flagWord, BitVec.msb_eq_getLsbD_last]

/-- `ZS` of a word given as a number. -/
theorem zs_of_toNat {r : Word} {n : Nat} (h : r.toNat = n) :
    zs r = flagWord .idiomatic false (decide (n = 0)) (n.testBit 31) := by
  subst h
  rw [zs_eq_flagWord, BitVec.msb_eq_getLsbD_last]
  simp only [BitVec.toNat_eq]
  rfl

/-- ADD's zero and sign term tests the top bit at its width (41_arithmetic.md R222). -/
theorem addZs_eq_flagWord (w : Width) (r : Word) :
    addZs w r = flagWord .idiomatic false (decide (r = 0#32)) (r.getLsbD (w.bits - 1)) := by
  cases w with
  | dword => exact (zs_eq_flagWord r).trans (by rw [BitVec.msb_eq_getLsbD_last])
  | byte =>
    have hbit : r &&& 0x80#32 = if r.getLsbD 7 then 0x80#32 else 0#32 := BitVec.and_twoPow r 7
    rw [← zeroSign_eq_flagWord, addZs, hbit]
    cases r.getLsbD 7 <;> rfl

/-- The carry flag as the number it adds (41_arithmetic.md R226). -/
theorem and_FC_toNat (f : Word) : (f &&& FC).toNat = (f.getLsbD 0).toNat := by
  have hbit : f &&& FC = if f.getLsbD 0 then 1#32 else 0#32 := BitVec.and_twoPow f 0
  rw [hbit]
  cases f.getLsbD 0 <;> rfl

/-! ## Carry and borrow out of a width -/

section
variable {M x y c : Nat}

/-- The carry test of ADD and ADC: the sum modulo `M` lies below an addend, or at it after a carry in. -/
theorem carry_test_iff (hx : x < M) (hy : y < M) (hc : c ≤ 1) :
    ((x + y + c) % M < x ∨ (x + y + c) % M = x ∧ c = 1) ↔ M ≤ x + y + c := by
  by_cases h : M ≤ x + y + c
  · have hmod : (x + y + c) % M = x + y + c - M := by rw [Nat.mod_eq_sub_mod h, Nat.mod_eq_of_lt (by omega)]
    omega
  · rw [Nat.mod_eq_of_lt (by omega)]
    omega

/-- The borrow test of SUB and SBB: the difference modulo `M` lies above the minuend, or at it after a borrow in. -/
theorem borrow_test_iff (hx : x < M) (hy : y < M) (hc : c ≤ 1) :
    (x < (x + M - (y + c)) % M ∨ (x + M - (y + c)) % M = x ∧ c = 1) ↔ x < y + c := by
  by_cases h : x < y + c
  · rw [Nat.mod_eq_of_lt (by omega)]
    omega
  · have hmod : (x + M - (y + c)) % M = x - (y + c) := by
      rw [Nat.mod_eq_sub_mod (by omega), Nat.mod_eq_of_lt (by omega)]
      omega
    omega

end

/-- `sub_eq_zero` with zero as the model writes it. -/
theorem sub_eq_zero_word {v1 v2 : Word} : v1 - v2 = 0#32 ↔ v1 = v2 := sub_eq_zero

/-! ## ADD and SUB (41_arithmetic.md R222, R224) -/

theorem addResult_toNat (w : Width) (v1 v2 : Word) :
    (addResult w v1 v2).toNat = (v1.toNat + v2.toNat) % 2 ^ w.bits := by
  rw [addResult, lowPart_toNat, BitVec.toNat_add, mod_word_mod_bits]

theorem addFlags_eq (ff : FlagFormula) {w : Width} {v1 v2 : Word} (h1 : v1.toNat < 2 ^ w.bits)
    (h2 : v2.toNat < 2 ^ w.bits) : addFlags ff w v1 v2 =
      flagWord ff (decide (2 ^ w.bits ≤ v1.toNat + v2.toNat)) (decide ((v1.toNat + v2.toNat) % 2 ^ w.bits = 0))
        ((v1.toNat + v2.toNat).testBit (w.bits - 1)) := by
  have hr := addResult_toNat w v1 v2
  have hcarry : addResult w v1 v2 < v1 ↔ 2 ^ w.bits ≤ v1.toNat + v2.toNat := by
    rw [BitVec.lt_def, hr]
    simpa using carry_test_iff h1 h2 (c := 0) (by omega)
  have hzero : addResult w v1 v2 = 0#32 ↔ (v1.toNat + v2.toNat) % 2 ^ w.bits = 0 := by
    rw [← hr]
    exact BitVec.toNat_eq
  have hsign : (addResult w v1 v2).getLsbD (w.bits - 1) = (v1.toNat + v2.toNat).testBit (w.bits - 1) := by
    rw [BitVec.getLsbD, hr, Nat.testBit_mod_two_pow]
    cases w <;> rfl
  simp only [addFlags, addZs_eq_flagWord, carryFlags_flagWord, hcarry, hzero, hsign]

/-- Settles O26: the sum's number at its width, and the flags it makes. -/
theorem addResultAndFlags : Obligations.AddResultAndFlags := fun s _ a b =>
  computes_of_aluBinary rfl (eq_ofNat_of_toNat_eq (addResult_toNat _ _ _))
    (addFlags_eq s.cfg.flagFormula (operandValue_lt s a _) (operandValue_lt s b _))

theorem subFlags_eq (ff : FlagFormula) (v1 v2 : Word) :
    subFlags ff v1 v2 = flagWord ff (decide (v1.toNat < v2.toNat)) (decide (v1 = v2)) (v1 - v2).msb := by
  have hborrow : v1 < v1 - v2 ↔ v1.toNat < v2.toNat := by
    have hdiff : (v1 - v2).toNat = (v1.toNat + 2 ^ 32 - (v2.toNat + 0)) % 2 ^ 32 := by
      rw [BitVec.toNat_sub]
      congr 1
      omega
    rw [BitVec.lt_def, hdiff]
    simpa using borrow_test_iff v1.isLt v2.isLt (c := 0) (by omega)
  simp only [subFlags, subResult, zs_eq_flagWord, carryFlags_flagWord, hborrow, sub_eq_zero_word]

/-- Settles O27: the difference is not masked, and a borrow is the only way for it to exceed its minuend. -/
theorem subResultAndFlags : Obligations.SubResultAndFlags := fun s _ _ _ =>
  computes_of_aluBinary rfl rfl (subFlags_eq s.cfg.flagFormula _ _)

/-- Settles O28: the compares are SUB's flags without its write. -/
theorem compareFlags : Obligations.CompareFlags := fun s _ _ =>
  ⟨fun _ => setsFlags_of_flagsOnly rfl (subFlags_eq s.cfg.flagFormula _ _),
    setsFlags_of_flagsOnly rfl (subFlags_eq s.cfg.flagFormula _ _),
    setsFlags_of_flagsOnly rfl (subFlags_eq s.cfg.flagFormula _ _)⟩

/-! ## ADC and SBB (41_arithmetic.md R226, R227) -/

theorem adcResult_toNat (w : Width) (fc v1 v2 : Word) :
    (adcResult w fc v1 v2).toNat = (v1.toNat + v2.toNat + fc.toNat) % 2 ^ w.bits := by
  rw [adcResult, lowPart_toNat, BitVec.toNat_add, BitVec.toNat_add, Nat.mod_add_mod, mod_word_mod_bits]

theorem sbbResult_toNat {w : Width} {fc v1 v2 : Word} (hv : v2.toNat + fc.toNat ≤ 2 ^ w.bits) :
    (sbbResult w fc v1 v2).toNat = (v1.toNat + 2 ^ w.bits - (v2.toNat + fc.toNat)) % 2 ^ w.bits := by
  rw [sbbResult, lowPart_toNat, BitVec.toNat_sub, BitVec.toNat_sub]
  cases w <;> simp only [Width.bits] at hv ⊢ <;> omega

section
variable {w : Width} {fc v1 v2 : Word}

/-- ADC's and SBB's flags over a result `r` given as a number, with `hc` the meaning of its carry or borrow test. -/
theorem carryFlags_of_toNat (ff : FlagFormula) {test : Bool} {carry : Prop} [Decidable carry] {r : Word} {n : Nat}
    (hr : r.toNat = n) (hc : test = true ↔ carry) :
    carryFlags ff test (zs r) = flagWord ff (decide carry) (decide (n = 0)) (n.testBit 31) := by
  have htest : test = decide carry := Bool.eq_iff_iff.mpr (hc.trans decide_eq_true_iff.symm)
  rw [zs_of_toNat hr, carryFlags_flagWord, htest]

theorem adcFlags_eq (ff : FlagFormula) (h1 : v1.toNat < 2 ^ w.bits) (h2 : v2.toNat < 2 ^ w.bits)
    (hfc : fc.toNat ≤ 1) : adcFlags ff w fc v1 v2 =
      flagWord ff (decide (2 ^ w.bits ≤ v1.toNat + v2.toNat + fc.toNat))
        (decide ((v1.toNat + v2.toNat + fc.toNat) % 2 ^ w.bits = 0))
        (((v1.toNat + v2.toNat + fc.toNat) % 2 ^ w.bits).testBit 31) := by
  refine carryFlags_of_toNat ff (adcResult_toNat w fc v1 v2) ?carry
  simp only [Bool.or_eq_true, Bool.and_eq_true, decide_eq_true_eq, beq_iff_eq, BitVec.lt_def, ← BitVec.toNat_inj,
    adcResult_toNat]
  exact carry_test_iff h1 h2 hfc

theorem sbbFlags_eq (ff : FlagFormula) (h1 : v1.toNat < 2 ^ w.bits) (h2 : v2.toNat < 2 ^ w.bits)
    (hfc : fc.toNat ≤ 1) : sbbFlags ff w fc v1 v2 =
      flagWord ff (decide (v1.toNat < v2.toNat + fc.toNat))
        (decide ((v1.toNat + 2 ^ w.bits - (v2.toNat + fc.toNat)) % 2 ^ w.bits = 0))
        (((v1.toNat + 2 ^ w.bits - (v2.toNat + fc.toNat)) % 2 ^ w.bits).testBit 31) := by
  have hr : (sbbResult w fc v1 v2).toNat = _ := sbbResult_toNat (by omega)
  refine carryFlags_of_toNat ff hr ?borrow
  simp only [Bool.or_eq_true, Bool.and_eq_true, decide_eq_true_eq, beq_iff_eq, BitVec.lt_def, ← BitVec.toNat_inj, hr]
  exact borrow_test_iff h1 h2 hfc

end

theorem and_FC_le_one (f : Word) : (f &&& FC).toNat ≤ 1 := by
  rw [and_FC_toNat]
  exact Bool.toNat_le _

/-- Settles O29: F's carry bit is the number that ADC adds. -/
theorem adcResultAndFlags : Obligations.AdcResultAndFlags := by
  intro s bm a b
  simp only [← and_FC_toNat]
  exact computes_of_aluBinary rfl (eq_ofNat_of_toNat_eq (adcResult_toNat _ _ _ _))
    (adcFlags_eq s.cfg.flagFormula (operandValue_lt s a _) (operandValue_lt s b _) (and_FC_le_one s.f))

/-- Settles O30: F's carry bit is the number that SBB takes away. -/
theorem sbbResultAndFlags : Obligations.SbbResultAndFlags := by
  intro s bm a b
  simp only [← and_FC_toNat]
  have hb := operandValue_lt s b (widthOf bm)
  have hfc := and_FC_le_one s.f
  exact computes_of_aluBinary rfl (eq_ofNat_of_toNat_eq (sbbResult_toNat (by omega)))
    (sbbFlags_eq s.cfg.flagFormula (operandValue_lt s a _) hb hfc)

/-! ## INC, DEC and NEG (41_arithmetic.md R228, R230, R232) -/

theorem incResult_toNat (w : Width) (v : Word) : (incResult w v).toNat = (v.toNat + 1) % 2 ^ w.bits :=
  addResult_toNat w v 1#32

theorem decFlags_eq (v : Word) : decFlags v = flagWord .idiomatic false (decide (v = 1#32)) (v - 1#32).msb := by
  simp only [decFlags, decResult, zs_eq_flagWord, sub_eq_zero_word]

/-- NEG's carry is set exactly when its value is not zero (41_arithmetic.md R232). -/
theorem negFlags_eq (v : Word) :
    negFlags v = flagWord .idiomatic (decide (v ≠ 0#32)) (decide (v = 0#32)) (0#32 - v).msb := by
  have hzero : negResult v = 0#32 ↔ v = 0#32 := sub_eq_zero_word.trans eq_comm
  have hterm : negFlags v = carryFlags .idiomatic (decide (v ≠ 0#32)) (zs (negResult v)) := by
    by_cases h : v = 0#32
    · subst h
      decide
    · simp [negFlags, carryFlags, carryBit, zs, hzero, h]
  simp only [hterm, zs_eq_flagWord, carryFlags_flagWord, hzero]
  rfl

/-- Settles O31: INC is taken at its width, DEC and NEG at 32 bits. -/
theorem incDecNegResultsAndFlags : Obligations.IncDecNegResultsAndFlags := fun _ _ _ =>
  ⟨computes_of_aluUnary rfl (eq_ofNat_of_toNat_eq (incResult_toNat _ _)) (zs_of_toNat (incResult_toNat _ _)),
    computes_of_aluUnary rfl rfl (decFlags_eq _), computes_of_aluUnary rfl rfl (negFlags_eq _)⟩

/-! ## MUL and DIV (41_arithmetic.md R234, R235) -/

theorem exec_div_of_zero {s : State} {bm : Bool} {a b : Operand} (h : operandValue s b (widthOf bm) = 0#32) :
    exec (.div bm a b) s = .next (advance s) := if_pos h

theorem exec_div_of_ne_zero {s : State} {bm : Bool} {a b : Operand} (h : operandValue s b (widthOf bm) ≠ 0#32) :
    exec (.div bm a b) s = quietBinary (widthOf bm) a b (fun v1 v2 => v1 / v2) s := if_neg h

/-- Settles O32: product and quotient as numbers, and the divisor 0 apart. -/
theorem mulAndDivResults : Obligations.MulAndDivResults := by
  intro s bm a b
  refine ⟨computes_of_quietBinary rfl ?mul, fun h => ?quotient, fun h => ?byZero⟩
  case mul => exact congrArg _ (eq_ofNat_of_toNat_eq (BitVec.toNat_mul _ _))
  case quotient =>
    have hb : operandValue s b (widthOf bm) ≠ 0#32 := fun hz => h (congrArg BitVec.toNat hz)
    exact computes_of_quietBinary (exec_div_of_ne_zero hb) (congrArg _ (eq_ofNat_of_toNat_eq BitVec.toNat_udiv))
  case byZero =>
    exact ⟨_, exec_div_of_zero (BitVec.eq_of_toNat_eq h), advance_advanced rfl rfl (SameRest.refl s), fun _ => rfl,
      fun _ => rfl, rfl⟩

/-! ## The ten typed opcodes (41_arithmetic.md R241 to R250) -/

/-- A sum written at a width. -/
theorem lowPart_add (w : Width) (v1 v2 : Word) :
    lowPart w (v1 + v2) = lowPart w (BitVec.ofNat 32 (v1.toNat + v2.toNat)) :=
  lowPart_eq_lowPart_ofNat (by rw [BitVec.toNat_add, mod_word_mod_bits])

/-- A difference written at a width, as a sum with the complement at that width. -/
theorem lowPart_sub {w : Width} {v1 v2 : Word} {n : Nat} (h2 : v2.toNat < 2 ^ w.bits)
    (hn : v1.toNat + (2 ^ w.bits - v2.toNat) = n) : lowPart w (v1 - v2) = lowPart w (BitVec.ofNat 32 n) := by
  subst hn
  apply lowPart_eq_lowPart_ofNat
  rw [BitVec.toNat_sub]
  cases w <;> simp only [Width.bits] at h2 ⊢ <;> omega

/-- Settles O33: the stored value is the sum or difference at 32 bits, of which the write takes its width. -/
theorem typedOpcodesLeaveFlags : Obligations.TypedOpcodesLeaveFlags := by
  intro s a b
  have hx (w : Width) := operandValue_lt s a w
  have hy (w : Width) := operandValue_lt s b w
  refine ⟨computes_of_quietBinary rfl ?addb, computes_of_quietBinary rfl ?addd, computes_of_quietBinary rfl ?subb,
    computes_of_quietBinary rfl ?subd, computes_of_quietUnary (result := (· + 1#32)) rfl ?incb,
    computes_of_quietUnary (result := (· + 1#32)) rfl ?incd, computes_of_quietUnary (result := (· - 1#32)) rfl ?decb,
    computes_of_quietUnary (result := (· - 1#32)) rfl ?decd, computes_of_quietUnary rfl ?negb,
    computes_of_quietUnary rfl ?negd⟩
  case addb | addd => exact lowPart_add _ _ _
  case incb | incd => exact lowPart_add _ _ 1#32
  case subb | subd => exact lowPart_sub (hy _) rfl
  case decb | decd => exact lowPart_sub (v2 := 1#32) (by decide) rfl
  case negb | negd => exact lowPart_sub (hx _) (Nat.zero_add _)

end Sys2Proof.Machine

/-! PROOF. Logic and shifts (42_logic_shift.md): the bodies are the shapes of the arithmetic, so what is left is each
shift amount, carry and result as a number. -/

namespace Sys2Proof.Machine

/-! ## Logic (42_logic_shift.md R270 to R274) -/

/-- `ZS` with the zero test made on the word's number. -/
theorem zs_eq_flagWord_toNat (r : Word) : zs r = flagWord .idiomatic false (decide (r.toNat = 0)) r.msb := by
  rw [zs_of_toNat rfl, BitVec.msb_eq_getLsbD_last]
  rfl

/-- AND, OR and XOR are one body over their bitwise operation, whose FC stays clear. -/
theorem computes_of_logic {i : Instr} {s : State} {a b : Operand} {w : Width} (op : Word → Word → Word)
    (h : exec i s = aluBinary w a b op (fun v1 v2 => zs (op v1 v2)) s) :
    let r := op (operandValue s a w) (operandValue s b w)
    Computes i s a w r (flagWord .idiomatic false (decide (r.toNat = 0)) r.msb) :=
  computes_of_aluBinary h rfl (zs_eq_flagWord_toNat _)

/-- Settles O34: AND, OR and XOR are one shape; TEST is AND's flags without its write, and NOT writes without flags. -/
theorem logicResultsAndFlags : Obligations.LogicResultsAndFlags := fun _ _ _ _ =>
  ⟨computes_of_logic (· &&& ·) rfl, computes_of_logic (· ||| ·) rfl, computes_of_logic (· ^^^ ·) rfl,
    setsFlags_of_flagsOnly (flags := fun v1 v2 => zs (v1 &&& v2)) rfl (zs_eq_flagWord_toNat _),
    computes_of_quietUnary (result := (~~~ ·)) rfl rfl⟩

/-! ## Shift amounts (42_logic_shift.md R275) -/

/-- The mask 31 keeps a count modulo 32. -/
theorem and_31_toNat (v : Word) : (v &&& 31#32).toNat = v.toNat % 32 := by
  rw [BitVec.toNat_and]
  exact Nat.and_two_pow_sub_one_eq_mod v.toNat 5

theorem shiftAmount_eq (v2 : Word) : shiftAmount v2 = v2.toNat % 32 := and_31_toNat v2

theorem carryAmount_eq (v2 : Word) : carryAmount v2 = (v2.toNat + 31) % 32 := by
  rw [carryAmount, and_31_toNat, BitVec.toNat_sub, BitVec.toNat_ofNat]
  omega

/-! ## Results (42_logic_shift.md R276 to R278) -/

section
variable (v1 v2 : Word)

theorem shlResult_eq : shlResult v1 v2 = BitVec.ofNat 32 (v1.toNat * 2 ^ (v2.toNat % 32)) := by
  apply BitVec.eq_of_toNat_eq
  rw [shlResult, shiftAmount_eq, BitVec.toNat_shiftLeft, Nat.shiftLeft_eq, BitVec.toNat_ofNat]

theorem shrResult_eq : shrResult v1 v2 = BitVec.ofNat 32 (v1.toNat / 2 ^ (v2.toNat % 32)) := by
  apply eq_ofNat_of_toNat_eq
  rw [shrResult, shiftAmount_eq, BitVec.toNat_ushiftRight, Nat.shiftRight_eq_div_pow]

theorem sarResult_eq : sarResult v1 v2 = BitVec.ofInt 32 (v1.toInt / 2 ^ (v2.toNat % 32)) := by
  rw [sarResult, shiftAmount_eq, BitVec.sshiftRight_eq, Int.shiftRight_eq_div_pow]
  norm_cast

/-! ## Carries (42_logic_shift.md R275) -/

/-- The bit that a left shift by `carryAmount` brings to bit 31. -/
theorem leftCarry_eq : decide ((v1 <<< carryAmount v2) &&& 0x80000000#32 ≠ 0#32) =
    v1.getLsbD (31 - (v2.toNat + 31) % 32) := by
  have hbit (x : Word) : x &&& 0x80000000#32 = if x.getLsbD 31 then 0x80000000#32 else 0#32 := BitVec.and_twoPow x 31
  have htop : (v1 <<< carryAmount v2).getLsbD 31 = v1.getLsbD (31 - (v2.toNat + 31) % 32) := by
    have hk : ¬ 31 < (v2.toNat + 31) % 32 := by omega
    rw [carryAmount_eq, BitVec.getLsbD_shiftLeft, decide_eq_false hk]
    rfl
  rw [hbit, htop]
  cases v1.getLsbD (31 - (v2.toNat + 31) % 32) <;> rfl

/-- The bit that a right shift by `carryAmount` brings to bit 0. -/
theorem rightCarry_eq : rightCarry v1 v2 = carryBit (v1.getLsbD ((v2.toNat + 31) % 32)) := by
  have hbit (x : Word) : x &&& 1#32 = carryBit (x.getLsbD 0) := BitVec.and_twoPow x 0
  rw [rightCarry, hbit, carryAmount_eq, BitVec.getLsbD_ushiftRight, Nat.add_zero]

/-! ## Flags: `ZS` of the result and a carry bit -/

theorem shlFlags_eq :
    shlFlags v1 v2 = zs (shlResult v1 v2) ||| carryBit (v1.getLsbD (31 - (v2.toNat + 31) % 32)) := by
  rw [shlFlags, leftCarry_eq]

theorem shrFlags_eq : shrFlags v1 v2 = zs (shrResult v1 v2) ||| carryBit (v1.getLsbD ((v2.toNat + 31) % 32)) := by
  rw [shrFlags, rightCarry_eq]

theorem sarFlags_eq : sarFlags v1 v2 = zs (sarResult v1 v2) ||| carryBit (v1.getLsbD ((v2.toNat + 31) % 32)) := by
  rw [sarFlags, rightCarry_eq]

end

/-! ## The shifts assembled -/

/-- A carry joined to `ZS` of the result (42_logic_shift.md R276 to R278). -/
theorem zs_or_carryBit (r : Word) (c : Bool) :
    zs r ||| carryBit c = flagWord .idiomatic c (decide (r = 0#32)) r.msb := by
  rw [zs_eq_flagWord, BitVec.or_comm]
  exact carryFlags_flagWord .idiomatic c _ _

/-- SHL, SHR and SAR are one body over their result `r` and their carry `c`. -/
theorem computes_of_shift {i : Instr} {s : State} {a b : Operand} {w : Width} {result flags : Word → Word → Word}
    {r : Word} {c : Bool} (h : exec i s = aluBinary w a b result flags s)
    (hr : result (operandValue s a w) (operandValue s b w) = r)
    (hf : flags (operandValue s a w) (operandValue s b w) =
      zs (result (operandValue s a w) (operandValue s b w)) ||| carryBit c) :
    Computes i s a w r (flagWord .idiomatic c (decide (r = 0#32)) r.msb) :=
  computes_of_aluBinary h hr (by rw [hf, hr, zs_or_carryBit])

/-- Settles O35: each shift's result as a number, and its carry as the bit that the carry's own shift brings out. -/
theorem shiftResultsAndFlags : Obligations.ShiftResultsAndFlags := fun _ _ _ _ =>
  ⟨computes_of_shift rfl (shlResult_eq _ _) (shlFlags_eq _ _),
    computes_of_shift rfl (shrResult_eq _ _) (shrFlags_eq _ _),
    computes_of_shift rfl (sarResult_eq _ _) (sarFlags_eq _ _)⟩

end Sys2Proof.Machine

/-! PROOF. Control transfer (43_control.md): every jump is one shape, `jumpIf`, over its flag test; CALL and RET are
`setIP` on either side of a stack move; what an instruction costs comes from `exec_cases`; and a step is the execution
of what it fetches. -/

namespace Sys2Proof.Machine

/-! ## Conditions of the jumps (10_state.md R39) -/

/-- The test of a one-bit mask is that bit of F. -/
theorem anyFlag_twoPow (f : Word) {k : Nat} (hk : k < 32) : anyFlag f (BitVec.twoPow 32 k) = f.getLsbD k := by
  have hne : BitVec.twoPow 32 k ≠ 0#32 := fun h => by
    have hbit := congrArg (BitVec.getLsbD · k) h
    simp [hk] at hbit
  rw [anyFlag, BitVec.and_twoPow]
  cases f.getLsbD k <;> simp [hne]

/-- The test of two masks at once holds when one of the two does. -/
theorem anyFlag_or (f m n : Word) : anyFlag f (m ||| n) = (anyFlag f m || anyFlag f n) := by
  simp only [anyFlag, BitVec.and_or_distrib_left, ne_eq, BitVec.or_eq_zero_iff, not_and_or, Bool.decide_or]

theorem anyFlag_FC (f : Word) : anyFlag f FC = f.getLsbD 0 := anyFlag_twoPow f (k := 0) (by decide)

theorem anyFlag_FZ (f : Word) : anyFlag f FZ = f.getLsbD 1 := anyFlag_twoPow f (k := 1) (by decide)

theorem anyFlag_FS (f : Word) : anyFlag f FS = f.getLsbD 31 := anyFlag_twoPow f (k := 31) (by decide)

theorem anyFlag_FC_or_FZ (f : Word) : anyFlag f (FC ||| FZ) = (f.getLsbD 0 || f.getLsbD 1) := by
  rw [anyFlag_or, anyFlag_FC, anyFlag_FZ]

/-! ## Jumps (43_control.md R302 to R311) -/

theorem onlyAdvances_of_advance {i : Instr} {s : State} (h : exec i s = .next (advance s)) : OnlyAdvances i s :=
  ⟨_, h, advance_advanced rfl rfl (SameRest.refl s), fun _ => rfl, fun _ => rfl, rfl⟩

/-- An instruction that is `jumpIf` over a test `c` jumps when `cond` holds, where `c` is that condition. -/
theorem jumpsWhen_of_jumpIf {i : Instr} {s : State} {a : Operand} {c cond : Bool} (h : exec i s = jumpIf c a s)
    (hc : c = cond) : JumpsWhen cond i a s := by
  subst hc
  cases c with
  | true =>
    obtain ⟨t, hjump, ht⟩ := jumpIf_taken a s
    exact ⟨t, h.trans hjump, ht⟩
  | false => exact onlyAdvances_of_advance (h.trans (jumpIf_not_taken a s))

/-- Settles O36: each jump is `jumpIf` over the test of its flags. -/
theorem jumpsFollowTheirFlags : Obligations.JumpsFollowTheirFlags := fun s _ =>
  ⟨jumpsWhen_of_jumpIf rfl rfl,
    jumpsWhen_of_jumpIf rfl (anyFlag_FZ s.f), jumpsWhen_of_jumpIf rfl (congrArg not (anyFlag_FZ s.f)),
    jumpsWhen_of_jumpIf rfl (anyFlag_FS s.f), jumpsWhen_of_jumpIf rfl (congrArg not (anyFlag_FS s.f)),
    jumpsWhen_of_jumpIf rfl (anyFlag_FC s.f), jumpsWhen_of_jumpIf rfl (anyFlag_FC_or_FZ s.f),
    jumpsWhen_of_jumpIf rfl (congrArg not (anyFlag_FC_or_FZ s.f)),
    jumpsWhen_of_jumpIf rfl (congrArg not (anyFlag_FC s.f))⟩

/-! ## CALL (43_control.md R312) -/

/-- Settles O37: the state between the push and the transfer is what `storeTop` leaves of the moved R7. -/
theorem callPushesThenTransfers : Obligations.CallPushesThenTransfers := by
  intro s a
  refine ⟨storeTop (decSp s) (BitVec.ofNat 32 (s.ip + 1)), _, rfl, decSp_reg s, ?stored, rfl, setIP_state _ _⟩
  case stored =>
    rw [← maskAddr_eq]
    exact storeTop_stored (decSp s) _

/-! ## RET (43_control.md R313) -/

/-- A transfer beyond the Program, or one that uses the budget up, ends the execute (43_control.md R300). -/
theorem setIP_eq_ended {s : State} {target : Word} (h : s.cmdCount ≤ target.toNat ∨ s.budget - 1 ≤ 0) :
    setIP s target = .ended (setIP s target).state := by
  obtain ⟨t, he, -⟩ | ⟨ht, hb, -⟩ := setIP_cases s target
  · rw [he]; rfl
  · omega

/-- Any other transfer continues at its target (43_control.md R300). -/
theorem setIP_eq_continued {s : State} {target : Word} (h : ¬ (s.cmdCount ≤ target.toNat ∨ s.budget - 1 ≤ 0)) :
    setIP s target = .continued ((s.setBudget (s.budget - 1)).setIp target.toNat) := by
  obtain ⟨ht, hb⟩ := not_or.mp h
  exact (if_neg ht).trans (if_neg hb)

/-- Below MEMSIZE the masked R7 is R7 itself (20_memory.md R71). -/
theorem loadTop_of_lt {s : State} (h : (s.reg .r7).toNat < 0x40000) :
    loadTop s = memRead32 s.mem (s.reg .r7).toNat := by
  rw [loadTop, maskAddr_eq, Nat.mod_eq_of_lt (by omega)]

theorem execRet_of_memSize_le {s : State} (h : 0x40000 ≤ (s.reg .r7).toNat) :
    execRet s = .next (finish s .finished) := if_pos h

theorem not_memSizeWord_le {x : Word} (h : x.toNat < 0x40000) : ¬ memSizeWord ≤ x := not_le.mpr h

/-- A RET whose transfer ends the execute leaves R7. -/
theorem execRet_of_ended {s u : State} (h : (s.reg .r7).toNat < 0x40000) (he : setIP s (loadTop s) = .ended u) :
    execRet s = .next u := by
  rw [execRet, if_neg (not_memSizeWord_le h), he]

/-- A RET whose transfer continues pops the index it went to. -/
theorem execRet_of_continued {s u : State} (h : (s.reg .r7).toNat < 0x40000)
    (he : setIP s (loadTop s) = .continued u) : execRet s = .next (incSp u) := by
  rw [execRet, if_neg (not_memSizeWord_le h), he]

/-- Settles O38: below MEMSIZE, by whether the transfer to the popped index ends the execute. -/
theorem retFinishesOrPopsItsTarget : Obligations.RetFinishesOrPopsItsTarget := by
  refine fun s => ⟨execRet_of_memSize_le, fun h7 => ?_⟩
  rw [← loadTop_of_lt h7]
  intro target
  by_cases hend : s.cmdCount ≤ target.toNat ∨ s.budget - 1 ≤ 0
  · refine ⟨_, _, setIP_state s target, execRet_of_ended h7 (setIP_eq_ended hend), ?_⟩
    rw [if_pos hend]
  · have hgo := setIP_eq_continued hend
    have hstate := setIP_state s target
    rw [hgo] at hstate
    refine ⟨_, _, hstate, execRet_of_continued h7 hgo, ?_⟩
    rw [if_neg hend]
    exact ⟨rfl, incSp_reg _⟩

/-! ## Budget (43_control.md R300, R301, 10_state.md R40) -/

/-- Settles O39: a body keeps the phase and the budget, so the way control goes on decides both. -/
theorem everyInstructionCostsOneBudgetUnit : Obligations.EveryInstructionCostsOneBudgetUnit := by
  intro i s t hp h
  obtain ⟨-, u, hbody, rfl⟩ | ⟨u, hbody, hredirect⟩ := exec_cases h
  · exact .inl ⟨hbody.phase.trans hp, congrArg (· - 1) hbody.budget⟩
  · rw [← hbody.budget]
    cases hredirect with
    | finished => exact .inr (.inl ⟨rfl, rfl⟩)
    | exhausted hb => exact .inr (.inr ⟨rfl, rfl, hb⟩)
    | jumped => exact .inl ⟨hbody.phase.trans hp, rfl⟩

/-! ## The step (43_control.md section 1) -/

theorem step_of_fetch {s : State} {i : Instr} (hp : s.phase = .running) (hf : s.program.cmd[s.ip]? = some i) :
    step s = exec i s := by
  simp only [step, hp, fetch, hf]

/-- A placed instruction stands where the placed state fetches. -/
theorem placeInstr_fetch (s : State) (i : Instr) :
    (placeInstr s i).program.cmd[(placeInstr s i).ip]? = some i := by
  simp [placeInstr, State.program]

theorem withFetchWord_of_decode {s : State} {nbits w : Nat} {i : Instr} (h : decodeTableWord nbits w = some i) :
    s.withFetchWord nbits w = placeInstr s i := by
  simp only [State.withFetchWord, h]

/-- Settles O54: a placed table word is a fetched instruction like any other. -/
theorem stepExecutesTheFetchedInstruction : Obligations.StepExecutesTheFetchedInstruction := by
  refine ⟨fun s i => step_of_fetch, fun s nbits w i h => ?_⟩
  rw [withFetchWord_of_decode h]
  exact step_of_fetch rfl (placeInstr_fetch s i)

end Sys2Proof.Machine

/-! PROOF. The stack (44_stack.md): PUSH and PUSHF are one push over the value stored, POP and POPF go through the
dword at the top; PUSHA's stores come from an induction over the words stored, each in a slot of its own, and POPA
reads the same slots from the other end. -/

namespace Sys2Proof.Machine

/-! ## PUSH and PUSHF (44_stack.md R330, R336) -/

/-- An instruction that moves R7 down and stores `v` there: what its state holds. -/
theorem push_spec {i : Instr} {s : State} {v : Word} (h : exec i s = .next (advance (storeTop (decSp s) v))) :
    ∃ t, exec i s = .next t ∧ Advanced s t ∧ t.f = s.f ∧
      (∀ q, t.reg q = if q = .r7 then s.reg .r7 - 4#32 else s.reg q) ∧
      StoredAt s.mem t.mem ((s.reg .r7 - 4#32).toNat % 2 ^ 18) .dword v := by
  refine ⟨_, h, advance_advanced rfl rfl (((SameRest.refl s).setRegs _).setMem _), rfl, decSp_reg s, ?stored⟩
  case stored =>
    rw [← maskAddr_eq]
    exact storeTop_stored (decSp s) v

/-- Settles O40: the value that PUSH stores differs from the operand's own where the operand is R7. -/
theorem pushesStoreBelowTheStackPointer : Obligations.PushesStoreBelowTheStackPointer := by
  intro s a sp pushed
  have hpushed : readOp (decSp s) (resolve s.regs a) .dword = pushed := by
    cases a with
    | reg r => exact decSp_reg s r
    | imm v => rfl
    | mem r d => exact congrArg (memRead32 s.mem) (maskAddr_eq _)
    | memAbs d => exact congrArg (memRead32 s.mem) (maskAddr_eq _)
  have hpush : exec (.push a) s = .next (advance (storeTop (decSp s) pushed)) := by
    rw [← hpushed]
    rfl
  exact List.forall_mem_cons.mpr ⟨push_spec hpush, List.forall_mem_singleton.mpr (push_spec rfl)⟩

/-! ## POP and POPF (44_stack.md R331, R337) -/

theorem loadTop_eq (s : State) : loadTop s = memRead32 s.mem ((s.reg .r7).toNat % 2 ^ 18) := by
  rw [loadTop, maskAddr_eq]

/-- Settles O41: the state between POP's write and its increment is what `writeOp` leaves. -/
theorem popsLoadFromTheStackPointer : Obligations.PopsLoadFromTheStackPointer := by
  intro s a
  rw [← loadTop_eq]
  refine ⟨⟨writeOp s (resolve s.regs a) .dword (loadTop s), _, rfl, ?control, by simp, writeOp_written s _ _ _,
    fun _ => rfl, incSp_reg _⟩, ?popf⟩
  case control => exact advance_advanced (by simp) (by simp) (((SameRest.refl s).writeOp _ _ _).setRegs _)
  case popf =>
    exact ⟨_, rfl, advance_advanced rfl rfl (((SameRest.refl s).setF _).setRegs _), rfl, fun _ => rfl,
      incSp_reg (s.setF (loadTop s))⟩

/-! ## The slots of PUSHA (44_stack.md R334) -/

/-- The address of slot `j` below `sp`, slot 0 being the highest. -/
def slotBelow (sp : Word) (j : Nat) : Nat := (sp - BitVec.ofNat 32 (4 * j + 4)).toNat % 2 ^ 18

theorem maskAddr_eq_slotBelow (sp : Word) : maskAddr (sp - 4#32) = slotBelow sp 0 := maskAddr_eq _

theorem slotBelow_sub_four (sp : Word) (j : Nat) : slotBelow (sp - 4#32) j = slotBelow sp (j + 1) := by
  rw [slotBelow, slotBelow, BitVec.sub_sub, BitVec.ofNat_add_ofNat, show 4 + (4 * j + 4) = 4 * (j + 1) + 4 by omega]

/-- The slots lie a multiple of 4 apart on a memory of 2^18 bytes, so two of them never overlap. -/
theorem slotBelow_disjoint (sp : Word) {i j : Nat} (hij : i ≠ j) (hi : i < 2 ^ 16) (hj : j < 2 ^ 16) :
    slotBelow sp i + 4 ≤ slotBelow sp j ∨ slotBelow sp j + 4 ≤ slotBelow sp i := by
  simp only [slotBelow, BitVec.toNat_sub, BitVec.toNat_ofNat]
  omega

/-- A byte outside the slots is as before. -/
theorem readByte_pushWords {a : Nat} (vs : List Word) : ∀ (m : Memory) (sp : Word),
    (∀ j, j < vs.length → a < slotBelow sp j ∨ slotBelow sp j + 4 ≤ a) →
    readByte (pushWords m (sp - 4#32) vs) a = readByte m a := by
  induction vs with
  | nil => exact fun _ _ _ => rfl
  | cons v vs ih =>
    intro m sp h
    have hfirst := h 0 (Nat.succ_pos _)
    have hrest (j : Nat) (hj : j < vs.length) :
        a < slotBelow (sp - 4#32) j ∨ slotBelow (sp - 4#32) j + 4 ≤ a := by
      rw [slotBelow_sub_four]
      exact h (j + 1) (Nat.succ_lt_succ hj)
    rw [pushWords, ih _ _ hrest, maskAddr_eq_slotBelow, memWrite32_stored, if_neg (by simp only [Width.bytes]; omega)]

/-- Slot `j` holds word `j`: the later stores go to other slots. -/
theorem memRead32_pushWords (vs : List Word) : ∀ (m : Memory) (sp : Word), vs.length ≤ 2 ^ 16 →
    ∀ {j : Nat} {v : Word}, vs[j]? = some v → memRead32 (pushWords m (sp - 4#32) vs) (slotBelow sp j) = v := by
  induction vs with
  | nil => exact fun _ _ _ _ _ hv => nomatch hv
  | cons w vs ih =>
    intro m sp hlen j v hv
    rw [List.length_cons] at hlen
    cases j with
    | zero =>
      obtain rfl : w = v := Option.some.inj hv
      have hkept : memRead32 (pushWords m (sp - 4#32) (w :: vs)) (slotBelow sp 0) =
          memRead32 (memWrite32 m (slotBelow sp 0) w) (slotBelow sp 0) := by
        rw [pushWords, maskAddr_eq_slotBelow]
        refine memRead32_congr fun i hi => readByte_pushWords vs _ _ fun j hj => ?_
        rw [slotBelow_sub_four]
        have hapart := slotBelow_disjoint sp (Nat.zero_ne_add_one j) (by omega) (by omega)
        omega
      exact hkept.trans (memRead32_of_stored (memWrite32_stored m _ w))
    | succ j =>
      rw [pushWords, ← slotBelow_sub_four]
      exact ih _ _ (by omega) hv

theorem Regs.toList_length (rs : Regs) : rs.toList.length = 8 := rfl

theorem Regs.toList_field (rs : Regs) (q : Reg) : rs.toList[q.field]? = some (rs.get q) := by
  cases q <;> rfl

/-- Settles O42: the eight stores are `pushWords` of R0 to R7, read before R7 is set. -/
theorem pushaStoresAllRegisters : Obligations.PushaStoresAllRegisters := by
  intro s
  refine ⟨_, rfl, advance_advanced rfl rfl (((SameRest.refl s).setMem _).setRegs _), rfl,
    fun q => State.reg_setReg _ .r7 q _, fun q => ?slot, fun a => ?frame⟩
  case slot =>
    have hlen : s.regs.toList.length ≤ 2 ^ 16 := by rw [s.regs.toList_length]; decide
    exact memRead32_pushWords s.regs.toList s.mem _ hlen (s.regs.toList_field q)
  case frame => exact readByte_pushWords s.regs.toList s.mem _

/-! ## POPA (44_stack.md R335) -/

/-- Settles O43: register by register, its slot counted from the old R7 upward. -/
theorem popaLoadsAllRegisters : Obligations.PopaLoadsAllRegisters := by
  intro s
  refine ⟨_, rfl, advance_advanced rfl rfl ((SameRest.refl s).setRegs _), rfl, fun _ => rfl, fun q => ?loaded⟩
  case loaded =>
    rw [← maskAddr_eq]
    cases q <;> rfl

/-- PUSHA's slot `j` counted from the top is POPA's slot `7 - j` counted from the bottom. -/
theorem sub_add_slot (sp : Word) {j : Nat} (hj : j < 8) :
    sp - 32#32 + BitVec.ofNat 32 (4 * (7 - j)) = sp - BitVec.ofNat 32 (4 * j + 4) := by
  bv_omega

theorem field_lt (q : Reg) : q.field < 8 := by
  cases q <;> decide

/-- Settles O44: POPA reads each register from the slot that PUSHA stored it in. -/
theorem popaAfterPushaRestoresRegisters : Obligations.PopaAfterPushaRestoresRegisters := by
  intro s t u hpusha hpopa
  obtain ⟨_, ht, -, -, hsp, hslots, -⟩ := pushaStoresAllRegisters s
  obtain rfl : _ = t := by injection ht.symm.trans hpusha
  obtain ⟨_, hu, -, -, -, hloads⟩ := popaLoadsAllRegisters _
  obtain rfl : _ = u := by injection hu.symm.trans hpopa
  refine Regs.ext_get fun q => ?_
  have hload := hloads q
  rw [hsp .r7, if_pos rfl, sub_add_slot _ (field_lt q), hslots q] at hload
  exact hload

end Sys2Proof.Machine

/-! PROOF. STANDARD and PRINT (45_system.md): the filter's acceptance is R352's table row by row, the step then follows
the filter's answer, and the two dwords that an accepting filter stores last are read back. -/

namespace Sys2Proof.Machine

/-! ## The standard-filter unit (45_system.md R351, R352) -/

/-- The table of 45_system.md R352, id by id; `R0 - 3` is taken mod 2^32. -/
def FilterPrecondition (id : Word) (rs : Regs) : Prop :=
  let n := id.toNat
  let size := rs.r4.toNat
  let r0 := rs.r0.toNat
  ((n = 1 ∨ n = 2) ∧ 4 ≤ size ∧ size ≤ 0x40000) ∨ (n = 3 ∧ 21 ≤ size ∧ size ≤ 0x40000) ∨
    (n = 4 ∧ 3 ≤ size ∧ (r0 + (2 ^ 32 - 3)) % 2 ^ 32 ≤ size ∧ rs.r1.toNat ≤ 2) ∨
    (n = 5 ∧ size < 0x20000 ∧ 0 < r0 ∧ r0 ≤ 128) ∨ (n = 6 ∧ size < 0x20000 ∧ 0 < r0 ∧ r0 ≤ 1024) ∨
    (n = 7 ∧ size < 0x1E000)

/-- The subtraction of the image predictor's width, on natural numbers (45_system.md R352). -/
theorem toNat_sub_three (v : Word) : (v - 3#32).toNat = (v.toNat + (2 ^ 32 - 3)) % 2 ^ 32 := by
  rw [BitVec.toNat_sub, Nat.add_comm]
  rfl

/-- Row by row of the table: the id selects the row, whose comparisons are the same on both sides. -/
theorem filterAccepts_iff (id : Word) (rs : Regs) : filterAccepts id rs = true ↔ FilterPrecondition id rs := by
  unfold filterAccepts FilterPrecondition
  split
  case h_8 =>
    simp only [imp_false, Bool.false_eq_true, false_iff] at *
    omega
  case h_4 =>
    simp only [Bool.and_eq_true, decide_eq_true_eq, toNat_sub_three]
    omega
  all_goals
    simp only [Bool.and_eq_true, decide_eq_true_eq, memSize, globalMemAddr]
    omega

theorem stdFilter_of_declined {id : Word} {rs : Regs} (h : ¬ FilterPrecondition id rs) (m : Memory) :
    stdFilter id rs m = none :=
  if_neg (mt (filterAccepts_iff id rs).mp h)

theorem exists_stdFilter_of_accepted {id : Word} {rs : Regs} (h : FilterPrecondition id rs) (m : Memory) :
    ∃ m', stdFilter id rs m = some m' :=
  ⟨_, if_pos ((filterAccepts_iff id rs).mpr h)⟩

/-- What an accepting filter leaves: some memory with the size and then the offset stored (45_system.md R351 clause 4). -/
theorem stdFilter_stores {id : Word} {rs : Regs} {m m' : Memory} (h : stdFilter id rs m = some m') :
    ∃ m₁ m₂, StoredAt m₁ m₂ resultSizeAddr .dword (Config.stdFilterSize id rs.toList m) ∧
      StoredAt m₂ m' resultOffsetAddr .dword (Config.stdFilterOffset id rs.toList m) := by
  unfold stdFilter at h
  split at h
  case isTrue =>
    obtain rfl := Option.some.inj h
    exact ⟨_, _, memWrite32_stored _ _ _, memWrite32_stored _ _ _⟩
  case isFalse => cases h

/-- Settles O46: the offset is stored last; the size lies just below it and is read through that store. -/
theorem acceptingFilterRecordsItsWindow : Obligations.AcceptingFilterRecordsItsWindow := by
  intro id rs m m' h
  obtain ⟨m₁, m₂, hsize, hoffset⟩ := stdFilter_stores h
  refine ⟨?size, memRead32_of_stored hoffset, fun hwf => stdFilter_wf hwf h⟩
  case size =>
    calc memRead32 m' resultSizeAddr
      _ = memRead32 m₂ resultSizeAddr := memRead32_of_stored_ne hoffset (.inl (by decide))
      _ = Config.stdFilterSize id rs.toList m := memRead32_of_stored hsize

/-! ## STANDARD (45_system.md R354) -/

theorem exec_standard_of_none {s : State} {a : Operand}
    (h : stdFilter (operandValue s a .dword) s.regs s.mem = none) :
    exec (.standard a) s = .next (advance (s.setDeclined true)) := by
  change execStandard a s = _
  rw [operandValue] at h
  rw [execStandard, h]

theorem exec_standard_of_some {s : State} {a : Operand} {m : Memory}
    (h : stdFilter (operandValue s a .dword) s.regs s.mem = some m) :
    exec (.standard a) s = .next (advance (s.setMem m)) := by
  change execStandard a s = _
  rw [operandValue] at h
  rw [execStandard, h]

/-- Settles O45: the filter's answer follows R352's table, and the step follows the answer. -/
theorem standardDeclinesExactlyOutsideItsPrecondition :
    Obligations.StandardDeclinesExactlyOutsideItsPrecondition := by
  intro s a id size r0 pre
  refine ⟨fun hdecline => ?declined, fun haccept => ?accepted⟩
  case declined => exact exec_standard_of_none (stdFilter_of_declined hdecline s.mem)
  case accepted =>
    obtain ⟨m, hm⟩ := exists_stdFilter_of_accepted haccept s.mem
    exact ⟨_, exec_standard_of_some hm, advance_advanced rfl rfl ((SameRest.refl s).setMem m), rfl, rfl, hm⟩

/-! ## PRINT (45_system.md R356) -/

/-- Settles O47: PRINT's body is `advance` alone, which writes IP and the budget. -/
theorem printDoesNothing : Obligations.PrintDoesNothing := fun _ => rfl

end Sys2Proof.Machine

/-! PROOF. No fault and no endless run (60_exceptions.md): under the invariant a running fetch finds an instruction, and
every instruction completes; an execute then ends, because each of its steps ends it or counts `stepsLeft` down. -/

namespace Sys2Proof.Machine

/-! ## Every instruction completes (60_exceptions.md R400) -/

theorem jumpIf_completes (cond : Bool) (op1 : Operand) (s : State) : ∃ t, jumpIf cond op1 s = .next t := by
  cases cond with
  | true => exact ⟨_, rfl⟩
  | false => exact ⟨_, rfl⟩

theorem execDiv_completes (bm : Bool) (op1 op2 : Operand) (s : State) : ∃ t, execDiv bm op1 op2 s = .next t := by
  unfold execDiv
  split
  · exact ⟨_, rfl⟩
  · exact ⟨_, rfl⟩

theorem execStandard_completes (op1 : Operand) (s : State) : ∃ t, execStandard op1 s = .next t := by
  unfold execStandard
  split
  · exact ⟨_, rfl⟩
  · exact ⟨_, rfl⟩

theorem execRet_completes (s : State) : ∃ t, execRet s = .next t := by
  rcases le_or_gt 0x40000 (s.reg .r7).toNat with h7 | h7
  · exact ⟨_, execRet_of_memSize_le h7⟩
  · cases he : setIP s (loadTop s) with
    | continued u => exact ⟨_, execRet_of_continued h7 he⟩
    | ended u => exact ⟨_, execRet_of_ended h7 he⟩

/-- No instruction faults and none is refused: a body without a branch completes as it is written, and so does each
branch of the others (60_exceptions.md R400). -/
theorem exec_completes (i : Instr) (s : State) : ∃ t, exec i s = .next t := by
  cases i with
  | jz | jnz | js | jns | jb | jbe | ja | jae => exact jumpIf_completes _ _ s
  | div bm op1 op2 => exact execDiv_completes bm op1 op2 s
  | standard op1 => exact execStandard_completes op1 s
  | ret => exact execRet_completes s
  | _ => exact ⟨_, rfl⟩

/-! ## No step faults (60_exceptions.md R400, 10_state.md R36) -/

/-- Under the invariant a running step is the execution of an instruction of the Program (10_state.md R36). -/
theorem step_running {s : State} (h : Invariant s) (hp : s.phase = .running) : ∃ i, step s = exec i s :=
  ⟨_, step_of_fetch hp (List.getElem?_eq_getElem (h.fetch hp))⟩

theorem completes_of_running {s : State} (h : Invariant s) (hp : s.phase = .running) : Completes s := by
  obtain ⟨i, hi⟩ := step_running h hp
  rw [Completes, hi]
  exact exec_completes i s

/-- The wrapper's end always completes (70_reset_and_hazards.md R431). -/
theorem completes_of_ended {s : State} {o : ExecOutcome} (hp : s.phase = .ended o) : Completes s :=
  ⟨executeEnd s o, by simp only [step, hp]⟩

theorem completes_of_not_idle {s : State} (h : Invariant s) (hp : s.phase ≠ .idle) : Completes s := by
  cases hq : s.phase with
  | idle => exact absurd hq hp
  | running => exact completes_of_running h hq
  | ended o => exact completes_of_ended hq

theorem Completes.ne_fault {s : State} (h : Completes s) (r : Fault) : step s ≠ .fault r := by
  obtain ⟨t, ht⟩ := h
  rw [ht]
  exact nofun

theorem hostSetProgram_ne_fault (s : State) (p : Nat) (change : Program → Program) (r : Fault) :
    hostSetProgram s p change ≠ .fault r := by
  rcases lt_or_ge p s.programs.length with hlt | hge
  · rw [hostSetProgram_of_lt hlt]
    exact nofun
  · rw [hostSetProgram_of_le hge]
    exact nofun

theorem hostWriteMem_ne_fault (s : State) (a : Nat) (data : List Byte) (r : Fault) :
    hostWriteMem s a data ≠ .fault r := by
  rcases le_or_gt (a + data.length) memBytes with hle | hgt
  · rw [hostWriteMem_of_le hle]
    exact nofun
  · rw [hostWriteMem_of_lt hgt]
    exact nofun

theorem hostExecute_ne_fault (s : State) (p : Nat) (r : Fault) : hostExecute s p ≠ .fault r := by
  cases hg : s.programs[p]? with
  | none =>
    rw [hostExecute_of_none hg]
    exact nofun
  | some g =>
    rw [hostExecute_of_some hg]
    exact nofun

/-- The host's port may refuse a request, but never faults (70_reset_and_hazards.md R437). -/
theorem serve_ne_fault (s : State) (q : HostRequest) (r : Fault) : serve s q ≠ .fault r := by
  cases q with
  | prepare code => exact nofun
  | setInitR p _ => exact hostSetProgram_ne_fault s p _ r
  | setGlobalData p _ => exact hostSetProgram_ne_fault s p _ r
  | writeMem a d => exact hostWriteMem_ne_fault s a d r
  | execute p => exact hostExecute_ne_fault s p r

theorem step_ne_fault_of_idle {s : State} (hp : s.phase = .idle) (r : Fault) : step s ≠ .fault r := by
  cases hh : s.host with
  | nil =>
    simp only [step, hp, hostStep, hh]
    exact nofun
  | cons q rest =>
    rw [step_idle hp hh]
    exact serve_ne_fault _ q r

/-- Settles O59: outside the idle phase every step completes, and while idle only the host's port is at work. -/
theorem noStepFaultsUnderTheInvariant : Obligations.NoStepFaultsUnderTheInvariant := by
  refine fun s h => ⟨fun r => ?_, completes_of_not_idle h⟩
  by_cases hp : s.phase = .idle
  · exact step_ne_fault_of_idle hp r
  · exact (completes_of_not_idle h hp).ne_fault r

/-! ## Runs that end -/

theorem run_succ_of_step {M : Host.Core} {s t : M.State} (h : M.step s = .next t) (n : Nat) :
    M.run (n + 1) s = M.run n t := by
  simp only [Host.Core.run, h]

theorem steps_succ_of_step {s t : State} (h : step s = .next t) (n : Nat) : steps (n + 1) s = steps n t :=
  run_succ_of_step (M := Sys2Proof.core) h n

/-- Some run of at most `n` steps reaches the end of the loop. -/
def EndsWithin (n : Nat) (s : State) : Prop :=
  ∃ (k : Nat) (t : State) (o : ExecOutcome), k ≤ n ∧ steps k s = .next t ∧ t.phase = .ended o

theorem endsWithin_zero_of_ended {s : State} {o : ExecOutcome} (hp : s.phase = .ended o) : EndsWithin 0 s :=
  ⟨0, s, o, le_rfl, rfl, hp⟩

theorem EndsWithin.of_step {n : Nat} {s t : State} (h : EndsWithin n t) (ht : step s = .next t) :
    EndsWithin (n + 1) s := by
  obtain ⟨k, u, o, hk, hu, ho⟩ := h
  exact ⟨k + 1, u, o, Nat.succ_le_succ hk, (steps_succ_of_step ht k).trans hu, ho⟩

theorem EndsWithin.mono {m n : Nat} {s : State} (h : EndsWithin m s) (hmn : m ≤ n) : EndsWithin n s := by
  obtain ⟨k, t, o, hk, ht, ho⟩ := h
  exact ⟨k, t, o, hk.trans hmn, ht, ho⟩

/-! ## The bound on an execute (60_exceptions.md R412, 43_control.md R314) -/

/-- A bound on the steps a running execute still takes. A jump goes on only if it leaves some of the budget, so up to
the budget's last unit each step takes one unit; that unit and what follows it are one straight-line run. -/
def stepsLeft (s : State) : Nat :=
  if 0 < s.budget then (s.budget - 1).toNat + s.cmdCount else s.cmdCount - s.ip

theorem stepsLeft_of_budget_pos {s : State} (h : 0 < s.budget) : stepsLeft s = (s.budget - 1).toNat + s.cmdCount :=
  if_pos h

theorem stepsLeft_of_budget_nonpos {s : State} (h : s.budget ≤ 0) : stepsLeft s = s.cmdCount - s.ip :=
  if_neg (not_lt.mpr h)

theorem stepsLeft_le (s : State) : stepsLeft s ≤ s.budget.toNat + s.cmdCount := by
  rcases lt_or_ge 0 s.budget with hb | hb
  · rw [stepsLeft_of_budget_pos hb]
    omega
  · rw [stepsLeft_of_budget_nonpos hb]
    omega

theorem stepsLeft_pos {s : State} (hip : s.ip < s.cmdCount) : 0 < stepsLeft s := by
  rcases lt_or_ge 0 s.budget with hb | hb
  · rw [stepsLeft_of_budget_pos hb]
    omega
  · rw [stepsLeft_of_budget_nonpos hb]
    omega

theorem BodyKept.stepsLeft_eq {s u : State} (h : BodyKept s u) : stepsLeft u = stepsLeft s := by
  simp only [stepsLeft, h.budget, h.ip, cmdCount_congr h.programs h.cur]

/-- Control going on takes a unit of a positive budget, and an index of the straight line after that. -/
theorem stepsLeft_advance_lt {u : State} (hip : u.ip < u.cmdCount) : stepsLeft (advance u) < stepsLeft u := by
  have hcount : (advance u).cmdCount = u.cmdCount := rfl
  rcases lt_trichotomy u.budget 1 with hb | hb | hb
  · rw [stepsLeft_of_budget_nonpos (by simp; omega), stepsLeft_of_budget_nonpos (by omega), hcount, advance_ip]
    omega
  · rw [stepsLeft_of_budget_nonpos (by simp; omega), stepsLeft_of_budget_pos (by omega), hcount, advance_ip]
    omega
  · rw [stepsLeft_of_budget_pos (by simp; omega), stepsLeft_of_budget_pos (by omega), hcount, advance_budget]
    omega

/-- A transfer ends the execute or takes a unit of the budget, wherever it goes (43_control.md R300). -/
theorem Redirects.ends_or_counts_down {u t : State} (h : Redirects u t) :
    (∃ o, t.phase = .ended o) ∨ (t.phase = u.phase ∧ stepsLeft t < stepsLeft u) := by
  cases h with
  | finished => exact .inl ⟨_, rfl⟩
  | exhausted => exact .inl ⟨_, rfl⟩
  | jumped target ht hb =>
    refine .inr ⟨rfl, ?_⟩
    have hcount : ((u.setBudget (u.budget - 1)).setIp target).cmdCount = u.cmdCount := rfl
    rw [stepsLeft_of_budget_pos (by simpa using hb), stepsLeft_of_budget_pos (by omega), hcount, State.setIp_budget,
      State.setBudget_budget]
    omega

theorem exec_ends_or_counts_down {i : Instr} {s t : State} (hip : s.ip < s.cmdCount) (he : exec i s = .next t) :
    (∃ o, t.phase = .ended o) ∨ (t.phase = s.phase ∧ stepsLeft t < stepsLeft s) := by
  obtain ⟨-, u, hbody, rfl⟩ | ⟨u, hbody, hredirect⟩ := exec_cases he
  · have hu : u.ip < u.cmdCount := by rwa [hbody.ip, cmdCount_congr hbody.programs hbody.cur]
    exact .inr ⟨hbody.phase, hbody.stepsLeft_eq ▸ stepsLeft_advance_lt hu⟩
  · rw [← hbody.phase, ← hbody.stepsLeft_eq]
    exact hredirect.ends_or_counts_down

/-- A running execute ends within its bound: each step ends it or leaves a running state with a smaller bound. -/
theorem endsWithin_stepsLeft (s : State) (h : Invariant s) (hp : s.phase = .running) : EndsWithin (stepsLeft s) s := by
  obtain ⟨i, hi⟩ := step_running h hp
  obtain ⟨t, he⟩ := exec_completes i s
  have ht : step s = .next t := hi.trans he
  obtain ⟨o, ho⟩ | ⟨hphase, hlt⟩ := exec_ends_or_counts_down (h.fetch hp) he
  · exact ((endsWithin_zero_of_ended ho).of_step ht).mono (stepsLeft_pos (h.fetch hp))
  · have hrest := endsWithin_stepsLeft t (stepKeepsTheInvariant s t h ht) (hphase.trans hp)
    exact (hrest.of_step ht).mono hlt
termination_by stepsLeft s

/-- Settles O60: the bound on a running execute is at most its budget and the length of its Program together. -/
theorem everyExecuteTerminates : Obligations.EveryExecuteTerminates :=
  fun s h hp => (endsWithin_stepsLeft s h hp).mono (stepsLeft_le s)

end Sys2Proof.Machine

/-! PROOF. The execute wrapper and the host's port (70_reset_and_hazards.md): the start loads one byte image, the end
changes the Program being executed and no other, and each set-up request writes what it names or is refused. -/

namespace Sys2Proof.Machine

/-! ## Reset (70_reset_and_hazards.md R432) -/

/-- Settles O57: no Program exists at reset and the instance is idle, and no byte of memory is listed. -/
theorem resetMeetsTheInvariant : Obligations.ResetMeetsTheInvariant where
  memory := rfl
  config := rfl
  programs := nofun
  windows := nofun
  fetch := nofun
  reader := Nat.zero_le _
  budget := le_rfl

/-! ## The start of an execute (70_reset_and_hazards.md R430) -/

/-- What the start of an execute stores from 0x3C000: GlobalData, then StaticData in the room left. -/
def segmentImage (p : Program) : List Byte :=
  p.globalData.take globalMemSize ++ p.staticData.take (globalMemSize - min p.globalData.length globalMemSize)

theorem writeBytes_append (bs cs : List Byte) : ∀ (m : Memory) (a : Nat),
    writeBytes m a (bs ++ cs) = writeBytes (writeBytes m a bs) (a + bs.length) cs := by
  induction bs with
  | nil => exact fun _ _ => rfl
  | cons b bs ih =>
    intro m a
    rw [List.cons_append, writeBytes, ih, writeBytes, List.length_cons, Nat.add_assoc, Nat.add_comm 1]

theorem loadSegments_eq (m : Memory) (p : Program) :
    loadSegments m p = writeBytes m globalMemAddr (segmentImage p) := by
  rw [segmentImage, writeBytes_append, loadSegments, List.length_take, Nat.min_comm]

/-- The step that starts an execute of a Program that exists. -/
theorem step_execute {s : State} {p : Nat} {g : Program} {rest : List HostRequest} (hp : s.phase = .idle)
    (hh : s.host = .execute p :: rest) (hg : s.programs[p]? = some g) :
    step s = .next (executeStart (s.setHost rest) p g) :=
  (step_idle hp hh).trans (hostExecute_of_some hg)

/-- Settles O48: the start sets each register and field from the Program, and its two block writes are one write of the
segment image. -/
theorem executeStartsFromTheProgram : Obligations.ExecuteStartsFromTheProgram := by
  intro s p prog rest hp hh hg
  refine ⟨_, step_execute hp hh hg, rfl, rfl, rfl, rfl, rfl, rfl, rfl, rfl, rfl, rfl, rfl, rfl, rfl, rfl, rfl, rfl, rfl,
    rfl, rfl, fun a => ?_⟩
  have hmem : (executeStart (s.setHost rest) p prog).mem = writeBytes s.mem globalMemAddr (segmentImage prog) :=
    loadSegments_eq s.mem prog
  rw [hmem]
  exact readByte_writeBytes (segmentImage prog) s.mem globalMemAddr a

/-! ## The end of an execute (70_reset_and_hazards.md R431) -/

theorem step_ended {s : State} {o : ExecOutcome} (hp : s.phase = .ended o) : step s = .next (executeEnd s o) := by
  simp only [step, hp]

/-- The Program being executed is the one the end of an execute changes. -/
theorem executeEnd_program {s : State} {o : ExecOutcome} {p : Program} (h : s.programs[s.cur]? = some p) :
    (executeEnd s o).programs[s.cur]? = some (endProgram s.cfg o s.mem p) := by
  rw [executeEnd, List.getElem?_modify_eq, h]
  rfl

theorem executeEnd_program_ne {s : State} {o : ExecOutcome} {n : Nat} (h : n ≠ s.cur) :
    (executeEnd s o).programs[n]? = s.programs[n]? :=
  List.getElem?_modify_ne _ _ h.symm

/-- A Program found after the end of an execute, at the place of the one executed, is what the end made of it. -/
theorem exists_of_executeEnd_program {s : State} {o : ExecOutcome} {q : Program}
    (h : (executeEnd s o).programs[s.cur]? = some q) : ∃ p, q = endProgram s.cfg o s.mem p := by
  cases hp : s.programs[s.cur]? with
  | none => simp [executeEnd, hp] at h
  | some p => exact ⟨p, Option.some.inj (h.symm.trans (executeEnd_program hp))⟩

/-! ### The result window (70_reset_and_hazards.md R433, R435) -/

/-- No window is reported: the outcome hides it, or its end is past the addresses a program can form. -/
def WindowEmpty (cfg : Config) (o : ExecOutcome) (m : Memory) : Prop :=
  (cfg.exhaustWindow = .empty ∧ o = .exhausted) ∨
    memSize ≤ maskAddr (memRead32 m resultOffsetAddr) + maskAddr (memRead32 m resultSizeAddr)

theorem resultWindow_of_empty {cfg : Config} {o : ExecOutcome} {m : Memory} (h : WindowEmpty cfg o m) :
    resultWindow cfg o m = (0#32, 0#32) := by
  unfold resultWindow
  by_cases hhidden : cfg.exhaustWindow = .empty ∧ o = .exhausted
  · exact if_pos hhidden
  · rw [if_neg hhidden]
    exact if_pos (h.resolve_left hhidden)

theorem resultWindow_of_not_empty {cfg : Config} {o : ExecOutcome} {m : Memory} (h : ¬ WindowEmpty cfg o m) :
    resultWindow cfg o m = (memRead32 m resultOffsetAddr &&& memMask, memRead32 m resultSizeAddr &&& memMask) := by
  obtain ⟨hshown, hinside⟩ := not_or.mp h
  exact (if_neg hshown).trans (if_neg hinside)

/-- Settles O49: the reply and the Program hold one window, read from the control block unless it is empty. -/
theorem executeEndReportsTheResultWindow : Obligations.ExecuteEndReportsTheResultWindow := by
  intro s o hp
  rw [← maskAddr_eq, ← maskAddr_eq]
  refine ⟨_, execResult s o, step_ended hp, rfl, rfl, rfl, rfl, rfl, List.length_modify _ _ _, rfl, rfl,
    fun hempty => ?_, fun hwindow => ?_, fun q hq => ?_⟩
  · have hzero : resultWindow s.cfg o s.mem = (0#32, 0#32) := resultWindow_of_empty hempty
    exact ⟨congrArg Prod.fst hzero, congrArg Prod.snd hzero⟩
  · have hread := resultWindow_of_not_empty (cfg := s.cfg) (o := o) (m := s.mem) hwindow
    exact ⟨congrArg (fun w => w.1.toNat) hread, congrArg (fun w => w.2.toNat) hread⟩
  · obtain ⟨p, rfl⟩ := exists_of_executeEnd_program hq
    exact ⟨rfl, rfl, rfl⟩

/-! ### The global-data write-back (70_reset_and_hazards.md R434) -/

/-- Settles O50: the Program's GlobalData is the write-back, a block read when its size is not 0. -/
theorem globalDataWriteBack : Obligations.GlobalDataWriteBack := by
  intro s o p hp hcur
  refine ⟨_, _, step_ended hp, executeEnd_program hcur, fun hzero => if_pos hzero, fun hpos => ?_⟩
  have hblock : (endProgram s.cfg o s.mem p).globalData =
      readBytes s.mem globalMemAddr (min (memRead32 s.mem 0x3C030).toNat 0x1FC0 + fixedGlobalSize) := if_neg hpos
  rw [hblock]
  exact ⟨readBytes_length _ _ _, fun j hj => readBytes_getElem? s.mem _ globalMemAddr j hj⟩

/-! ### Poison (70_reset_and_hazards.md R436) -/

theorem poisoned_of_on {cfg : Config} (h : cfg.poisonOnExhaust = true) (cmd : List Instr) :
    poisoned cfg .exhausted cmd = cmd.set 0 .ret := if_pos ⟨h, rfl⟩

theorem poisoned_of_off {cfg : Config} {o : ExecOutcome} (h : cfg.poisonOnExhaust = false ∨ o = .finished)
    (cmd : List Instr) : poisoned cfg o cmd = cmd := by
  refine if_neg ?_
  rintro ⟨hon, rfl⟩
  obtain hoff | hfinished := h
  · exact absurd hon (by simp [hoff])
  · cases hfinished

theorem poisoned_length (cfg : Config) (o : ExecOutcome) (cmd : List Instr) :
    (poisoned cfg o cmd).length = cmd.length := by
  unfold poisoned
  split
  · exact List.length_set
  · rfl

theorem poisoned_getElem?_pos (cfg : Config) (o : ExecOutcome) (cmd : List Instr) {j : Nat} (hj : 0 < j) :
    (poisoned cfg o cmd)[j]? = cmd[j]? := by
  unfold poisoned
  split
  · exact List.getElem?_set_ne hj.ne
  · rfl

/-- Settles O51: the end changes one Program, and in its Cmd only instruction 0 by poison. -/
theorem executeEndRewritesInstructionsOnlyByPoison : Obligations.ExecuteEndRewritesInstructionsOnlyByPoison := by
  refine fun s o hp => ⟨_, step_ended hp, fun n hn => executeEnd_program_ne hn, fun p hcur => ?_⟩
  refine ⟨_, executeEnd_program hcur, rfl, rfl, poisoned_length _ _ _, fun j hj => poisoned_getElem?_pos _ _ _ hj, ?_,
    fun hoff => poisoned_of_off hoff _⟩
  rintro hon rfl hne
  have hset : (endProgram s.cfg .exhausted s.mem p).cmd = p.cmd.set 0 .ret := poisoned_of_on hon p.cmd
  rw [hset]
  exact List.getElem?_set_self (List.length_pos_iff.mpr hne)

/-! ## prepare requests (70_reset_and_hazards.md R432, 30_encoding.md R139) -/

theorem hostPrepare_of_length {s : State} {code : List Byte}
    (h : 1 ≤ code.length ∧ code.length ≤ s.cfg.maxCodeSize) :
    hostPrepare s code = { s with
      programs := s.programs ++ [(prepareCode s.cfg code).toProgram]
      reader := (prepareCode s.cfg code).reader
      reply := .prepared s.programs.length } := by
  simp only [hostPrepare, prepare, if_pos h]

theorem hostPrepare_of_bad_length {s : State} {code : List Byte}
    (h : ¬ (1 ≤ code.length ∧ code.length ≤ s.cfg.maxCodeSize)) :
    hostPrepare s code = s.setReply .prepareRefused := by
  simp only [hostPrepare, prepare, if_neg h]

/-- Settles O52: an accepted bytecode adds a Program after the others, a refused one writes the reply alone. -/
theorem prepareRequestTouchesNoVmState : Obligations.PrepareRequestTouchesNoVmState := by
  intro s code rest hp hh
  have hstep : step s = .next (hostPrepare (s.setHost rest) code) := step_idle hp hh
  by_cases hlen : 1 ≤ code.length ∧ code.length ≤ s.cfg.maxCodeSize
  · rw [hostPrepare_of_length (s := s.setHost rest) hlen] at hstep
    exact ⟨_, hstep, hp, rfl, rfl, rfl, rfl, rfl, rfl, rfl, rfl, rfl, fun _ => ⟨rfl, _, rfl, rfl, rfl⟩,
      fun hbad => absurd hlen hbad⟩
  · rw [hostPrepare_of_bad_length (s := s.setHost rest) hlen] at hstep
    exact ⟨_, hstep, hp, rfl, rfl, rfl, rfl, rfl, rfl, rfl, rfl, rfl, fun hok => absurd hok hlen,
      fun _ => ⟨rfl, rfl⟩⟩

/-! ## Set-up requests (70_reset_and_hazards.md R437) -/

/-- A set-up of a Program that exists replaces it by the changed one. -/
theorem hostSetProgram_of_some {s : State} {p : Nat} {g : Program} (h : s.programs[p]? = some g)
    (change : Program → Program) :
    hostSetProgram s p change = .next ((s.setPrograms (s.programs.set p (change g))).setReply .done) := by
  rw [hostSetProgram_of_lt (List.getElem?_eq_some_iff.mp h).1, List.modify_eq_set_getElem?, h]
  rfl

/-- Settles O53: each request by the operation that serves it, on what it names and outside of it. -/
theorem setUpRequestsWriteOnlyWhatTheyName : Obligations.SetUpRequestsWriteOnlyWhatTheyName := by
  refine fun s rest hp => ⟨fun p r g hh hg => ?initR, fun p d g hh hg => ?globalData, fun a d hh hle => ?mem,
    fun p r hh hle => ?initRRefused, fun p d hh hle => ?globalDataRefused, fun p hh hle => ?executeRefused,
    fun a d hh hlt => ?memRefused⟩
  all_goals rw [step_idle hp hh]
  case initR => exact hostSetProgram_of_some (s := s.setHost rest) hg _
  case globalData => exact hostSetProgram_of_some (s := s.setHost rest) hg _
  case mem =>
    exact ⟨_, hostWriteMem_of_le (s := s.setHost rest) hle, rfl, fun x => readByte_writeBytes d s.mem a x⟩
  case initRRefused => exact hostSetProgram_of_le (s := s.setHost rest) hle _
  case globalDataRefused => exact hostSetProgram_of_le (s := s.setHost rest) hle _
  case executeRefused => exact hostExecute_of_none (s := s.setHost rest) (List.getElem?_eq_none hle)
  case memRefused => exact hostWriteMem_of_lt (s := s.setHost rest) hlt

end Sys2Proof.Machine

/-! PROOF. The bit strings written out in 30_encoding.md section 4: each is the encoding of its instruction, so the
decoder reads the instruction back (`decodeOfEncodeIsIdentity`); the decoder itself is not run on them. -/

namespace Sys2Proof

/-- A stream whose next `n` bits are the bit string `w`, which encodes `i`, decodes to `i`. -/
theorem decodeInstr_of_bitString {bi : ByteImm} {k : Nat} {i : Instr} {r : BitReader} (n : Nat) (w : Word)
    (h : i.wellFormed bi k = true ∧ encode bi k i = some (bitsMSB n w) ∧ r.window n = bitsMSB n w) :
    (decodeInstr bi k r).1 = i := by
  obtain ⟨hwf, henc, hwindow⟩ := h
  have hstarts : r.startsWith (bitsMSB n w) := by rwa [BitReader.startsWith_iff, bitsMSB_length]
  exact congrArg Prod.fst (decodeOfEncodeIsIdentity bi k i _ r hwf henc hstarts)

/-- Settles O8: row by row, the table's length and bit string, grouped by field as the spec prints it. -/
theorem exampleBitStringsDecode : Obligations.ExampleBitStringsDecode :=
  ⟨decodeInstr_of_bitString 17 0b0000_0_1000_00_000101#32 (by decide),
    decodeInstr_of_bitString 21 0b0000_1_010001_00_10101011#32 (by decide),
    decodeInstr_of_bitString 26 0b0010_0_1011_0110010_01_00010000#32 (by decide),
    decodeInstr_of_bitString 9 0b0110_0_1110#32 (by decide),
    decodeInstr_of_bitString 15 0b100001_1_1010_1010#32 (by decide),
    decodeInstr_of_bitString 10 0b101101_1101#32 (by decide),
    decodeInstr_of_bitString 16 0b111000_1001_010000#32 (by decide),
    decodeInstr_of_bitString 6 0b101110#32 (by decide),
    decodeInstr_of_bitString 25 0b0000_0_1000_00_01_0000_10000000#32 (by decide)⟩

end Sys2Proof
